-- ==== Sys2Proof/Word.lean ====
section
/-! DEFINITION. The words of the block: an unsigned byte (R8), the 7-bit bus address (R31), and the words of the
two input ports (R64). Nothing in the block is signed and nothing is wider than a byte inside it (R47). -/

namespace Sys2Proof

/-- A byte: an unsigned 8-bit value (R8). -/
abbrev Byte := BitVec 8

/-- A 7-bit slave address (R31, R133). -/
abbrev Addr7 := BitVec 7

/-- A word of the `bus_event` format: 16 bits (R64, R65). -/
abbrev BusWord := BitVec 16

/-- A word of the `call` format: 24 bits (R64, R69). -/
abbrev CallWord := BitVec 24

end Sys2Proof
end

