-- ==== Sys2Proof/Config.lean ====
section
/-! DEFINITION. The block's implementation parameters (R6) and the model's free values. A parameter is a field of
`Config`; a value the spec leaves unspecified is an `opaque` constant with no body, so that no proof can see it. -/

namespace Sys2Proof

/-- `EVENT_CODES` (R6, R67): the status value, `word[7:0] & 0xF8`, of each of the ten listed event kinds. -/
structure EventCodes where
  srAddr : Byte
  srDataAck : Byte
  srDataNack : Byte
  srStop : Byte
  stAddr : Byte
  stDataAck : Byte
  stDataNack : Byte
  stLastData : Byte
  noInfo : Byte
  busError : Byte
  deriving DecidableEq, Repr

/-- The ten status values in the order of the table of R67. -/
def EventCodes.toList (c : EventCodes) : List Byte :=
  [c.srAddr, c.srDataAck, c.srDataNack, c.srStop, c.stAddr, c.stDataAck, c.stDataNack, c.stLastData, c.noInfo,
    c.busError]

/-- R68: the values must be distinct multiples of 8, "or the decoder is not a function". -/
def EventCodes.wf (c : EventCodes) : Bool :=
  c.toList.all (fun v => decide (v &&& 0xF8#8 = v)) && decide c.toList.Nodup

/-- The parameters a step reads (R6). `OWN_ADDR` is state, set by `INIT` (R31); `STAGING_INIT` is read only by reset. -/
structure Config where
  /-- `N`: size in bytes of the application's record -/
  size : Nat
  /-- `CAP`: capacity of `pendingWrites` in bytes -/
  cap : Nat
  /-- `DELAY_US`: compensating delay of each callback, microseconds; zero permitted -/
  delayUs : Nat
  /-- `EVENT_CODES` -/
  eventCodes : EventCodes
  /-- `ACK_AFTER_BUS_ERROR` -/
  ackAfterBusError : Bool
  deriving DecidableEq, Repr

/-- The ranges of R6: `1 ≤ N ≤ 256` (D4), `CAP ≥ 1` (D5), and the codes as R68 asks. -/
def Config.wf (c : Config) : Bool :=
  decide (1 ≤ c.size) && decide (c.size ≤ 256) && decide (1 ≤ c.cap) && c.eventCodes.wf

/-- Free value: `N - 1`, for the parameter `N`, which has no default (D4). -/
opaque Config.freeSizeLess1 : Fin 256

/-- Free value: the parameter `DELAY_US`, which has no default (R6). -/
opaque Config.freeDelayUs : Nat

/-- Free value: the parameter `STAGING_INIT`, any N bytes (R6, D17). -/
opaque Config.stagingInit : Nat → Byte

/-- Free value: `offset` after reset, unspecified (R22, R40, R41). -/
opaque Config.freeOffset : Fin 257

/-- Free value: the cells of `pendingWrites` after reset, unspecified (R24, R40, R41). -/
opaque Config.freePendingWrites : Nat → Byte

/-- Free value: `transactionReadBuffer` after reset, unspecified (R26, R40, R41). -/
opaque Config.freeTransactionReadBuffer : Nat → Byte

/-- Free value: `userBuffer` after reset, unspecified (R27, R40, R41). -/
opaque Config.freeUserBuffer : Nat → Byte

/-- Free value: `userBufferSnapshot` after reset, unspecified (R28, R40, R41). -/
opaque Config.freeUserBufferSnapshot : Nat → Byte

/-- Free value: `ownAddr` before `INIT`, unspecified (R31, R40, R41). -/
opaque Config.freeOwnAddr : Addr7

/-- Free value: whether, at the `n`-th choice, a pending bus event goes before the application's next step. The order is
left open (R153, D14). -/
opaque Config.busFirst : Nat → Bool

end Sys2Proof
end

