-- ==== Sys2Proof/Syntax.lean ====
section
/-! DEFINITION. The block's whole input set (R75), one constructor per row of the opcode table: eleven bus events
(R67), four application calls and one host call (R69). The block has no stored program (R3): an "instruction" is one
input word, delivered on one of two ports. -/

namespace Sys2Proof

/-- The sixteen input kinds (R75). -/
inductive Instr where
  /-- `SR_ADDR` (R85): the master has addressed the block for writing. -/
  | srAddr
  /-- `SR_DATA_ACK` (R86): a data byte received and acknowledged; the operand is `word[15:8]`. -/
  | srDataAck (b : Byte)
  /-- `SR_DATA_NACK` (R87): a data byte received and refused; the byte is carried and unused (R66). -/
  | srDataNack (b : Byte)
  /-- `SR_STOP` (R88): a stop or a repeated start observed while addressed as receiver. -/
  | srStop
  /-- `ST_ADDR` (R89): the master has addressed the block for reading. -/
  | stAddr
  /-- `ST_DATA_ACK` (R90): the previous byte was transmitted and acknowledged. -/
  | stDataAck
  /-- `ST_DATA_NACK` (R91): the previous byte was transmitted and refused. -/
  | stDataNack
  /-- `ST_LAST_DATA` (R92): the final byte was sent without the acknowledge enabled. -/
  | stLastData
  /-- `NO_INFO` (R93): no relevant state information. -/
  | noInfo
  /-- `BUS_ERROR` (R94): malformed signalling detected by the peripheral. -/
  | busError
  /-- `OTHER` (R95): any status value not listed; the operand is `word[7:3]`. -/
  | other (status : BitVec 5)
  /-- `SNAPSHOT` (R120). -/
  | snapshot
  /-- `COMMIT` (R122). -/
  | commit
  /-- `UREAD i` (R126). -/
  | uread (i : Byte)
  /-- `UWRITE i, v` (R127). -/
  | uwrite (i v : Byte)
  /-- `INIT addr` (R133). -/
  | init (addr : Addr7)
  deriving DecidableEq, Repr

/-- The inputs of the bus port (R75); the others are calls of mainline code. -/
def Instr.isBusEvent : Instr → Bool
  | .srAddr => true
  | .srDataAck _ => true
  | .srDataNack _ => true
  | .srStop => true
  | .stAddr => true
  | .stDataAck => true
  | .stDataNack => true
  | .stLastData => true
  | .noInfo => true
  | .busError => true
  | .other _ => true
  | .snapshot => false
  | .commit => false
  | .uread _ => false
  | .uwrite _ _ => false
  | .init _ => false

/-- An input word together with the port it arrives on. A decoder knows the format from the port, never from the
word's bits (R64). -/
inductive PortWord where
  | bus (w : BusWord)
  | call (w : CallWord)
  deriving DecidableEq, Repr

/-- Is it a word of the bus event port? -/
def PortWord.isBus : PortWord → Bool
  | .bus _ => true
  | .call _ => false

/-- Why the call-port decoder refuses a reserved word (R73). -/
inductive DecodeError where
  /-- an `op` value the table of R69 does not list -/
  | reservedOp
  /-- a non-zero bit in `[7:4]` -/
  | reservedBits
  /-- a non-zero `a` or `v` where R69 requires 0 -/
  | operandNotZero
  /-- `a[7] = 1` in an `INIT` word -/
  | addressBit7
  deriving DecidableEq, Repr

end Sys2Proof
end

