-- ==== Sys2Proof/WellFormed.lean ====
section
/-! DEFINITION. Which terms of `Instr` some input word stands for. Operand widths are in the types, so the one check
left is on `OTHER`: it is every status value that is NOT one of the ten listed (R67, R68). -/

namespace Sys2Proof

/-- The status byte, `word[7:0] & 0xF8`, of an `OTHER` event with status field `word[7:3]`. -/
def otherStatusByte (status : BitVec 5) : Byte := status.setWidth 8 <<< 3

/-- Well-formedness under the event codes in force. -/
def Instr.wf (codes : EventCodes) : Instr → Bool
  | .srAddr => true
  | .srDataAck _ => true
  | .srDataNack _ => true
  | .srStop => true
  | .stAddr => true
  | .stDataAck => true
  | .stDataNack => true
  | .stLastData => true
  | .noInfo => true
  | .busError => true
  | .other status => !codes.toList.contains (otherStatusByte status)
  | .snapshot => true
  | .commit => true
  | .uread _ => true
  | .uwrite _ _ => true
  | .init _ => true

end Sys2Proof
end

