-- ==== Sys2Proof/Decode.lean ====
section
/-! DEFINITION. Decoding of the two ports' words (R64–R73), total on every word, and the encoder. The bus port refuses
nothing (R68, R72); the call port refuses the reserved words by name (R73). -/

namespace Sys2Proof

/-- The default `EVENT_CODES`: the table of R67. PRESUMED: the spec takes these values from general knowledge of the
platform's peripheral (log entry 7). -/
def EventCodes.default : EventCodes where
  srAddr := 0x60
  srDataAck := 0x80
  srDataNack := 0x88
  srStop := 0xA0
  stAddr := 0xA8
  stDataAck := 0xB8
  stDataNack := 0xC0
  stLastData := 0xC8
  noInfo := 0xF8
  busError := 0x00

/-- The status byte of a bus word after masking: `word[7:0] & 0xF8` (R65). -/
def statusOf (w : BusWord) : Byte := w.extractLsb' 0 8 &&& 0xF8#8

/-- The data byte of a bus word: `word[15:8]` (R65, R70). -/
def dataOf (w : BusWord) : Byte := w.extractLsb' 8 8

/-- The kind is the row whose status equals `word[7:0] & 0xF8`, and `OTHER` when no row does (R68). -/
def decodeBus (codes : EventCodes) (w : BusWord) : Instr :=
  if statusOf w = codes.srAddr then .srAddr
  else if statusOf w = codes.srDataAck then .srDataAck (dataOf w)
  else if statusOf w = codes.srDataNack then .srDataNack (dataOf w)
  else if statusOf w = codes.srStop then .srStop
  else if statusOf w = codes.stAddr then .stAddr
  else if statusOf w = codes.stDataAck then .stDataAck
  else if statusOf w = codes.stDataNack then .stDataNack
  else if statusOf w = codes.stLastData then .stLastData
  else if statusOf w = codes.noInfo then .noInfo
  else if statusOf w = codes.busError then .busError
  else .other (w.extractLsb' 3 5)

/-- Field `op = word[3:0]` of a call word (R69). -/
def opOf (w : CallWord) : BitVec 4 := w.extractLsb' 0 4

/-- The reserved field `word[7:4]` of a call word (R69). -/
def reservedOf (w : CallWord) : BitVec 4 := w.extractLsb' 4 4

/-- Field `a = word[15:8]` of a call word (R69). -/
def argOf (w : CallWord) : Byte := w.extractLsb' 8 8

/-- Field `v = word[23:16]` of a call word (R69). -/
def valueOf (w : CallWord) : Byte := w.extractLsb' 16 8

/-- The call port's decoder (R69); a reserved word is refused (R73). -/
def decodeCall (w : CallWord) : Except DecodeError Instr :=
  if reservedOf w ≠ 0 then .error .reservedBits
  else if opOf w = 0x0 then
    if argOf w = 0 ∧ valueOf w = 0 then .ok .snapshot else .error .operandNotZero
  else if opOf w = 0x1 then
    if argOf w = 0 ∧ valueOf w = 0 then .ok .commit else .error .operandNotZero
  else if opOf w = 0x2 then
    if valueOf w = 0 then .ok (.uread (argOf w)) else .error .operandNotZero
  else if opOf w = 0x3 then .ok (.uwrite (argOf w) (valueOf w))
  else if opOf w = 0x8 then
    if valueOf w ≠ 0 then .error .operandNotZero
    else if (argOf w).getLsbD 7 then .error .addressBit7
    else .ok (.init (w.extractLsb' 8 7))
  else .error .reservedOp

/-- The decoder of both ports (R64). -/
def decode (codes : EventCodes) : PortWord → Except DecodeError Instr
  | .bus w => .ok (decodeBus codes w)
  | .call w => decodeCall w

/-- A bus word from its data byte and status byte (R65). -/
def busWord (data status : Byte) : BusWord := data.setWidth 16 <<< 8 ||| status.setWidth 16

/-- A call word from its fields (R69); the reserved bits are 0. -/
def callWord (v a : Byte) (op : BitVec 4) : CallWord :=
  v.setWidth 24 <<< 16 ||| a.setWidth 24 <<< 8 ||| op.setWidth 24

/-- The word of a well-formed instruction, from the tables of R65, R67 and R69. Bits a format ignores are written 0. -/
def encode (codes : EventCodes) : Instr → PortWord
  | .srAddr => .bus (busWord 0 codes.srAddr)
  | .srDataAck b => .bus (busWord b codes.srDataAck)
  | .srDataNack b => .bus (busWord b codes.srDataNack)
  | .srStop => .bus (busWord 0 codes.srStop)
  | .stAddr => .bus (busWord 0 codes.stAddr)
  | .stDataAck => .bus (busWord 0 codes.stDataAck)
  | .stDataNack => .bus (busWord 0 codes.stDataNack)
  | .stLastData => .bus (busWord 0 codes.stLastData)
  | .noInfo => .bus (busWord 0 codes.noInfo)
  | .busError => .bus (busWord 0 codes.busError)
  | .other status => .bus (busWord 0 (otherStatusByte status))
  | .snapshot => .call (callWord 0 0 0x0)
  | .commit => .call (callWord 0 0 0x1)
  | .uread i => .call (callWord 0 i 0x2)
  | .uwrite i v => .call (callWord v i 0x3)
  | .init addr => .call (callWord 0 (addr.setWidth 8) 0x8)

/-- The port and word that a row of `spec/opcode_table.json` of `nbits` bits stands for: rows of at most 16 bits are
bus events, rows of up to 24 bits are calls (R64); bits above `nbits` are 0. -/
def tableWord (nbits w : Nat) : Option PortWord :=
  if nbits ≤ 16 then some (.bus (BitVec.ofNat 16 (w % 2 ^ nbits)))
  else if nbits ≤ 24 then some (.call (BitVec.ofNat 24 (w % 2 ^ nbits)))
  else none

/-- The instruction this decoder reads from a table row's word, under the table's (default) event codes. -/
def decodeTableWord (nbits w : Nat) : Option Instr :=
  match tableWord nbits w with
  | none => none
  | some pw =>
    match decode EventCodes.default pw with
    | .ok i => some i
    | .error _ => none

end Sys2Proof
end

