-- ==== Sys2Proof/Machine/Deployment.lean ====
section
/-! DEFINITION. The parameter values a machine starts from at reset: the spec's default where it gives one, a free value
where it gives none (R6 and the table of OPEN parameters of D1–D28). -/

namespace Sys2Proof.Machine

/-- `CAP` 16 (D5), `ACK_AFTER_BUS_ERROR` true (D6) and the default `EVENT_CODES` (D2); `N` and `DELAY_US` are free. -/
def deployedConfig : Config where
  size := Config.freeSizeLess1.val + 1
  cap := 16
  delayUs := Config.freeDelayUs
  eventCodes := EventCodes.default
  ackAfterBusError := true

end Sys2Proof.Machine
end

