-- ==== Sys2Proof/Machine/Memory.lean ====
section
/-! DEFINITION. The buffer offset space (R42): byte arrays held as lists of cells in one canonical form, and the sets of
positions that `busTouched` (R30) is held as. Positions are natural numbers: there is no wrap (R112). -/

namespace Sys2Proof.Machine

/-- One copy of the buffer (or the cells of `pendingWrites`), as its cells by position. -/
abbrev Memory := List Host.Cell

/-- What a position with no cell reads as. DESIGN CHOICE (log entry 5): only a way to write bytes down. -/
def Memory.unlisted : Byte := 0x00

/-- `A[i]` (R10). -/
def Memory.read : Memory → Nat → Byte
  | [], _ => Memory.unlisted
  | (b, w) :: m, a => if a = b then w else Memory.read m a

/-- `A[i] <- v` (R10): writes exactly one byte and keeps the canonical form. -/
def Memory.write : Memory → Nat → Byte → Memory
  | [], a, v => if v = Memory.unlisted then [] else [(a, v)]
  | (b, w) :: m, a, v =>
    if a < b then (if v = Memory.unlisted then (b, w) :: m else (a, v) :: (b, w) :: m)
    else if a = b then (if v = Memory.unlisted then m else (a, v) :: m)
    else (b, w) :: Memory.write m a v

/-- The canonical form: positions strictly rising, no cell equal to what an unlisted position reads as. -/
def Memory.wf : Memory → Bool
  | [] => true
  | (a, v) :: m => decide (v ≠ Memory.unlisted) && m.all (fun c => decide (a < c.1)) && Memory.wf m

/-- Every cell lies at a position below `n`. -/
def Memory.below (n : Nat) (m : Memory) : Bool := m.all (fun c => decide (c.1 < n))

/-- The bytes `f 0, …, f (n-1)` at the positions `0 .. n-1`. -/
def Memory.ofFn (f : Nat → Byte) : Nat → Memory
  | 0 => []
  | n + 1 => Memory.ofFn f n ++ (if f n = Memory.unlisted then [] else [(n, f n)])

/-- A set of positions, strictly rising. -/
abbrev PosSet := List Nat

/-- Set the bit of one position. -/
def PosSet.insert : PosSet → Nat → PosSet
  | [], p => [p]
  | q :: l, p => if p < q then p :: q :: l else if p = q then q :: l else q :: PosSet.insert l p

/-- The canonical form: strictly rising. -/
def PosSet.wf : PosSet → Bool
  | [] => true
  | p :: l => l.all (fun q => decide (p < q)) && PosSet.wf l

end Sys2Proof.Machine
end

