-- ==== Sys2Proof/Machine/State.lean ====
section
/-! DEFINITION. The state of the block (R20), the parameters its steps read (R6), the two input ports, and the state
after reset (R40, R166). -/

namespace Sys2Proof.Machine

/-- The buffer manager's transaction state (R21). -/
inductive TxState where
  | idle
  | awaitingOffset
  | active
  deriving DecidableEq, Repr

/-- The application's turn (R29): `None`, `Open`, `Closed`. -/
inductive AppTurn where
  | noTurn
  | opened
  | closed
  deriving DecidableEq, Repr

/-- What the block signals to the bus peripheral (R33). -/
inductive Output where
  /-- `delayMicroseconds(n)` (R140) -/
  | delay (n : Nat)
  /-- byte `b` handed over for transmission -/
  | txByte (b : Byte)
  /-- `acknowledgeNextByte()` (R137) -/
  | ackNext
  /-- `refuseNextByte()`, never emitted (R138) -/
  | refuseNext
  /-- `recoverFromBusError()` (R139) -/
  | recoverBusError
  deriving DecidableEq, Repr

/-- One entry of the fault record: a code of R149 with its info. -/
inductive FaultRecord where
  /-- 1 `F_RX_IDLE`, with the byte -/
  | rxIdle (b : Byte)
  /-- 2 `F_READ_NO_OFFSET` -/
  | readNoOffset
  /-- 3 `F_READ_OOB`, with `offset` -/
  | readOob (offset : Nat)
  /-- 4 `F_WRITE_OOB`, with `offset` and `pendingCount` -/
  | writeOob (offset pendingCount : Nat)
  /-- 5 `F_CONFLICT`, with the lowest such position -/
  | conflict (p : Nat)
  /-- 6 `F_APP_NO_TURN`, with the call -/
  | appNoTurn (call : Instr)
  /-- 7 `F_APP_INDEX`, with the index -/
  | appIndex (i : Byte)
  /-- 8 `F_DOUBLE_INIT`, with the address -/
  | doubleInit (addr : Addr7)
  /-- 9 `F_BAD_ADDRESS`, with the address -/
  | badAddress (addr : Addr7)
  deriving DecidableEq, Repr

/-- What the bus brings next: a word of the event port (R65), or an address byte on the wire, which the peripheral
compares with `ownAddr` (R81). -/
inductive BusInput where
  | event (w : BusWord)
  | address (byte : Byte)
  deriving DecidableEq, Repr

/-- The state. The fields down to `faults` are the tuple of R20; the others are the model's own: the parameters
(log entry 1), the host interface (log entries 2, 3 and 10). -/
structure State where
  /-- parameters of the step (R6); no step changes them -/
  cfg : Config
  /-- R21 -/
  txState : TxState
  /-- R22: current byte position, an integer 0..256 -/
  offset : Nat
  /-- R23: an offset has been received since reset -/
  offsetValid : Bool
  /-- R24: the `CAP` byte cells of the write batch -/
  pendingWrites : Memory
  /-- R24: number of valid bytes in `pendingWrites` -/
  pendingCount : Nat
  /-- R25: canonical buffer contents -/
  staging : Memory
  /-- R26: transaction-start copy of `staging` -/
  transactionReadBuffer : Memory
  /-- R27: application working copy -/
  userBuffer : Memory
  /-- R28: copy of `userBuffer` at the last snapshot -/
  userBufferSnapshot : Memory
  /-- R29 -/
  appTurn : AppTurn
  /-- R30: the positions whose bit is set -/
  busTouched : PosSet
  /-- R31: `INIT` has succeeded -/
  initDone : Bool
  /-- R31: the slave address given to `INIT` -/
  ownAddr : Addr7
  /-- R33: outputs so far, oldest first -/
  outTrace : List Output
  /-- R34: the fault record -/
  faults : List FaultRecord
  /-- the bytes `UREAD` has returned to the application (R126), oldest first -/
  appResults : List Byte
  /-- what the bus is still to deliver, oldest first; the head is the pending event (R151, R153) -/
  busPort : List BusInput
  /-- the calls mainline is still to make, oldest first (R17) -/
  callPort : List CallWord
  /-- how many inputs have been taken: the argument of the free choice `Config.busFirst` (R153) -/
  choices : Nat
  deriving DecidableEq, Repr

/-- Why the machine stops. A closed list. -/
inductive Fault where
  /-- Raised by `step` and by every meaning when the fault record is not empty: "While `faults` is non-empty no step of
  either agent is enabled" (R148). Carries the record's first entry. Safe: the device would go on. -/
  | halted (r : FaultRecord)
  deriving DecidableEq, Repr

/-- Why an input is given no step. A closed list. -/
inductive Refusal where
  /-- Said by an arm of `exec` that has no meaning yet; no arm is left so. Safe. -/
  | notModelled (mnemonic : String)
  /-- Said by a bus event's meaning while `initDone = 0`: "No bus event step is enabled" (R135). Safe. -/
  | busDisabled
  /-- Said by `step` when the next call word is reserved: "refused by the decoder" (R73). Safe. -/
  | reservedCall (e : DecodeError)
  /-- Said by `step` when no agent has an input to take: the block "takes no step of its own" (R167). Safe. -/
  | noInput
  deriving DecidableEq, Repr

/-- The machine right after reset (R40, R166). Values the spec leaves unspecified are free (R41, log entry 4). -/
def State.reset : State where
  cfg := deployedConfig
  txState := .idle
  offset := Config.freeOffset.val
  offsetValid := false
  pendingWrites := Memory.ofFn Config.freePendingWrites deployedConfig.cap
  pendingCount := 0
  staging := Memory.ofFn Config.stagingInit deployedConfig.size
  transactionReadBuffer := Memory.ofFn Config.freeTransactionReadBuffer deployedConfig.size
  userBuffer := Memory.ofFn Config.freeUserBuffer deployedConfig.size
  userBufferSnapshot := Memory.ofFn Config.freeUserBufferSnapshot deployedConfig.size
  appTurn := .noTurn
  busTouched := []
  initDone := false
  ownAddr := Config.freeOwnAddr
  outTrace := []
  faults := []
  appResults := []
  busPort := []
  callPort := []
  choices := 0

end Sys2Proof.Machine
end

