-- ==== Sys2Proof/Machine/Operands.lean ====
section
/-! DEFINITION. Operand assembly (R70, R71): no sign extension, no scaling, no wrap. -/

namespace Sys2Proof.Machine

/-- A received byte taken as the offset: `zext_9(b)`, an integer 0..255 (R70, R103). -/
def offsetOfByte (b : Byte) : Nat := b.toNat

/-- The index operand of `UREAD` and `UWRITE`, 0..255; `i ≥ N` faults at execution, not at decode (R70). -/
def indexOfByte (i : Byte) : Nat := i.toNat

/-- The position of the `j`-th byte of the batch: `offset + j`, without wrap (R48, R112). -/
def applyPosition (offset j : Nat) : Nat := offset + j

/-- Where the next byte of the batch is stored: a full batch is discarded first (R104). -/
def appendIndex (cap count : Nat) : Nat := if count = cap then 0 else count

end Sys2Proof.Machine
end

