-- ==== Sys2Proof/Machine/Flags.lean ====
section
/-! DEFINITION. The block has no condition codes (R35). Its only computed bits are the conflict bits `busTouched` (R30):
how `onStop` sets them (R110) and how `COMMIT` tests them (R123). -/

namespace Sys2Proof.Machine

/-- Set the bits of the positions `offset .. offset+k-1` (R108, R110). -/
def touchRange (offset : Nat) : Nat → PosSet → PosSet
  | 0, l => l
  | k + 1, l => (touchRange offset k l).insert (applyPosition offset k)

/-- Is bit `p` of `busTouched` set? -/
def touched (l : PosSet) (p : Nat) : Bool := l.contains p

/-- Did the application change byte `p` in this turn: `userBuffer[p] ≠ userBufferSnapshot[p]` (R122)? -/
def changed (user snap : Memory) (p : Nat) : Bool := user.read p != snap.read p

/-- The lowest position below `n` that the application changed and the bus wrote in this turn (R123, R149). -/
def firstConflict (n : Nat) (user snap : Memory) (l : PosSet) : Option Nat :=
  (List.range n).find? (fun p => changed user snap p && touched l p)

end Sys2Proof.Machine
end

