-- ==== Sys2Proof/Machine/Ops.lean ====
section
/-! DEFINITION. The shared operations: the pseudocode's control primitives (R11), raising a fault (R148), the entry to
and return from the event handler (R84, R154, R155), and the named updates of the state. -/

namespace Sys2Proof.Machine

/-- How a piece of pseudocode ends: it runs through with a result, or a `raise` has ended the step (R148). -/
inductive Flow (α : Type) where
  | done (a : α) (s : State)
  | raised (s : State)
  deriving DecidableEq, Repr

/-- Sequencing: after a `raise` "no later statement of the step takes effect" (R148). -/
def Flow.andThen {α β : Type} (x : Flow α) (f : α → State → Flow β) : Flow β :=
  match x with
  | .done a s => f a s
  | .raised s => .raised s

/-- `skip` (R11). -/
def skip (s : State) : Flow Unit := .done () s

/-- `emit X`: append to the output trace (R11, R33). -/
def State.emit (s : State) (o : Output) : State := { s with outTrace := s.outTrace ++ [o] }

/-- Add one entry to the fault record (R34, R148). -/
def State.addFault (s : State) (r : FaultRecord) : State := { s with faults := s.faults ++ [r] }

/-- `raise Fault(code)`: record the fault and end the step; what the step did before stays (R148). -/
def raise {α : Type} (r : FaultRecord) (s : State) : Flow α := .raised (s.addFault r)

/-- A step that raised has still been taken: its next state carries the record, and no later step is enabled (R148). -/
def Flow.toOutcome (x : Flow Unit) : Host.Outcome State Fault Refusal :=
  match x with
  | .done _ s => .next s
  | .raised s => .next s

/-- Every step of either agent requires `faults = {}` (R84, R119, R148). -/
def whenNoFault (s : State) (k : Host.Outcome State Fault Refusal) : Host.Outcome State Fault Refusal :=
  match s.faults with
  | [] => k
  | r :: _ => .fault (.halted r)

/-- The return from the handler: the trailing `AckNext` ends the event step; nothing else is restored (R96, R155). -/
def returnFromEvent (ack : Bool) (s : State) : Flow Unit :=
  .done () (if ack then s.emit .ackNext else s)

/-- One bus event step around its dispatched action (R84). Entry saves nothing and changes no mode (R154). -/
def busEvent (body : State → Flow Unit) (ack : Bool) (s : State) : Host.Outcome State Fault Refusal :=
  whenNoFault s
    (if s.initDone then ((body s).andThen (fun _ t => returnFromEvent ack t)).toOutcome
     else .refused .busDisabled)

/-- One application or host call; it does not wait for `INIT` (R119). -/
def mainlineCall (body : State → Flow Unit) (s : State) : Host.Outcome State Fault Refusal :=
  whenNoFault s (body s).toOutcome

/-- The writes of `onStart`: `transactionReadBuffer <- staging`, `txState <- AwaitingOffset` (R101). -/
def State.beginTransaction (s : State) : State :=
  { s with transactionReadBuffer := s.staging, txState := .awaitingOffset }

/-- The writes of `receiveOffset` (R103). -/
def State.takeOffset (s : State) (o : Nat) : State :=
  { s with offset := o, offsetValid := true, txState := .active }

/-- Store a byte as the `n`-th of the batch, which then holds `n + 1` (R104). -/
def State.appendAt (s : State) (n : Nat) (b : Byte) : State :=
  { s with pendingWrites := s.pendingWrites.write n b, pendingCount := n + 1 }

/-- `offset <- offset + 1`, no wrap (R106). -/
def State.advanceOffset (s : State) : State := { s with offset := s.offset + 1 }

/-- `staging`, `busTouched` and `pendingCount` as the batch apply leaves them (R108). -/
def State.landBatch (s : State) (staging : Memory) (touched : PosSet) : State :=
  { s with staging := staging, busTouched := touched, pendingCount := 0 }

/-- `txState <- Idle` (R108). -/
def State.goIdle (s : State) : State := { s with txState := .idle }

/-- The writes of `SNAPSHOT` (R120). -/
def State.openTurn (s : State) : State :=
  { s with userBuffer := s.staging, busTouched := [], userBufferSnapshot := s.staging, appTurn := .opened }

/-- `staging` and `appTurn` as `COMMIT` leaves them (R122). -/
def State.closeTurn (s : State) (staging : Memory) : State := { s with staging := staging, appTurn := .closed }

/-- `userBuffer[i] <- v` (R127). -/
def State.writeUser (s : State) (i : Nat) (v : Byte) : State := { s with userBuffer := s.userBuffer.write i v }

/-- A byte returned to the application as a call's result (R126). -/
def State.giveResult (s : State) (b : Byte) : State := { s with appResults := s.appResults ++ [b] }

/-- `ownAddr <- addr`, `initDone <- 1` (R133). -/
def State.register (s : State) (addr : Addr7) : State := { s with ownAddr := addr, initDone := true }

/-- The head of the bus port has been taken. -/
def State.takeBus (s : State) (rest : List BusInput) : State :=
  { s with busPort := rest, choices := s.choices + 1 }

/-- The head of the call port has been taken. -/
def State.takeCall (s : State) (rest : List CallWord) : State :=
  { s with callPort := rest, choices := s.choices + 1 }

end Sys2Proof.Machine
end

