-- ==== Sys2Proof/Machine/Application.lean ====
section
/-! DEFINITION. The application's four calls (R119–R132), each one atomic step (R52). -/

namespace Sys2Proof.Machine

/-- `if userBuffer[i] ≠ userBufferSnapshot[i] then staging[i] <- userBuffer[i]` for `i` in `0 .. n-1`, in increasing `i`
(R122). -/
def commitBytes (user snap : Memory) : Nat → Memory → Memory
  | 0, m => m
  | n + 1, m =>
    if changed user snap n then (commitBytes user snap n m).write n (user.read n) else commitBytes user snap n m

/-- Calls other than `SNAPSHOT` require an open turn (R124, R128). -/
def requireTurn (call : Instr) (s : State) : Flow Unit :=
  if s.appTurn = .opened then skip s else raise (.appNoTurn call) s

/-- `i ≥ N` is outside the record (R128). -/
def requireIndex (i : Byte) (s : State) : Flow Unit :=
  if s.cfg.size ≤ indexOfByte i then raise (.appIndex i) s else skip s

/-- `SNAPSHOT()` (R120), in every turn state (R121). -/
def snapshotBody (s : State) : Flow Unit := .done () s.openTurn

/-- The diff-and-write part of `COMMIT()`: the conflict check comes before any write (R122, R123). -/
def commitDiff (s : State) : Flow Unit :=
  match firstConflict s.cfg.size s.userBuffer s.userBufferSnapshot s.busTouched with
  | some p => raise (.conflict p) s
  | none => .done () (s.closeTurn (commitBytes s.userBuffer s.userBufferSnapshot s.cfg.size s.staging))

/-- `COMMIT()` (R122). It does not write `userBufferSnapshot` (R125). -/
def commitBody (s : State) : Flow Unit := (requireTurn .commit s).andThen (fun _ t => commitDiff t)

/-- `UREAD(i)` (R126): the byte is the call's result. -/
def ureadBody (i : Byte) (s : State) : Flow Unit :=
  (requireTurn (.uread i) s).andThen fun _ t =>
    (requireIndex i t).andThen fun _ u => .done () (u.giveResult (u.userBuffer.read (indexOfByte i)))

/-- `UWRITE(i, v)` (R127). -/
def uwriteBody (i v : Byte) (s : State) : Flow Unit :=
  (requireTurn (.uwrite i v) s).andThen fun _ t =>
    (requireIndex i t).andThen fun _ u => .done () (u.writeUser (indexOfByte i) v)

/-- `SNAPSHOT` (R120). -/
def execSnapshot (s : State) : Host.Outcome State Fault Refusal := mainlineCall snapshotBody s

/-- `COMMIT` (R122). -/
def execCommit (s : State) : Host.Outcome State Fault Refusal := mainlineCall commitBody s

/-- `UREAD i` (R126). -/
def execUread (i : Byte) (s : State) : Host.Outcome State Fault Refusal := mainlineCall (ureadBody i) s

/-- `UWRITE i, v` (R127). -/
def execUwrite (i v : Byte) (s : State) : Host.Outcome State Fault Refusal := mainlineCall (uwriteBody i v) s

end Sys2Proof.Machine
end

