-- ==== Sys2Proof/Machine/BufferManager.lean ====
section
/-! DEFINITION. The four callbacks of the slave buffer manager (R99–R112). Each begins with `Delay(DELAY_US)` (R100). -/

namespace Sys2Proof.Machine

/-- The compensating delay at the start of every callback (R100). -/
def beginCallback (s : State) : State := s.emit (.delay s.cfg.delayUs)

/-- `onStart()` (R101): no fault. -/
def onStart (s : State) : Flow Unit := .done () (beginCallback s).beginTransaction

/-- `receiveOffset(b)` (R103). -/
def receiveOffset (b : Byte) (s : State) : Flow Unit := .done () (s.takeOffset (offsetOfByte b))

/-- `receiveData(b)` (R104), with the overflow policy: not a fault (R145). -/
def receiveData (b : Byte) (s : State) : Flow Unit :=
  .done () (s.appendAt (appendIndex s.cfg.cap s.pendingCount) b)

/-- What `onReceiveByte` does after its delay depends on `txState` (R102, R105). -/
def receiveByte (b : Byte) (s : State) : Flow Unit :=
  match s.txState with
  | .awaitingOffset => receiveOffset b s
  | .active => receiveData b s
  | .idle => raise (.rxIdle b) s

/-- `onReceiveByte(b)` (R102). -/
def onReceiveByte (b : Byte) (s : State) : Flow Unit := receiveByte b (beginCallback s)

/-- The checks and the read of `onRequestByte`, after its delay, in the order of R107. -/
def requestByte (s : State) : Flow Byte :=
  if s.offsetValid = false then raise .readNoOffset s
  else if s.cfg.size ≤ s.offset then raise (.readOob s.offset) s
  else .done (s.transactionReadBuffer.read s.offset) s.advanceOffset

/-- `onRequestByte()` (R106, R107). -/
def onRequestByte (s : State) : Flow Byte := requestByte (beginCallback s)

/-- `staging[offset + j] <- pendingWrites[j]` for `j` in `0 .. k-1`, in increasing `j` (R108). -/
def applyBytes (pw : Memory) (offset : Nat) : Nat → Memory → Memory
  | 0, m => m
  | k + 1, m => (applyBytes pw offset k m).write (applyPosition offset k) (pw.read k)

/-- Apply the write batch and mark the positions written while a turn is open (R108, R110). -/
def State.applyBatch (s : State) : State :=
  s.landBatch (applyBytes s.pendingWrites s.offset s.pendingCount s.staging)
    (if s.appTurn = .opened then touchRange s.offset s.pendingCount s.busTouched else s.busTouched)

/-- The batch part of `onStop`, after its delay: nothing to apply, past the end (R109), or apply (R108). -/
def stopBatch (s : State) : Flow Unit :=
  if 0 < s.pendingCount then
    if s.cfg.size < s.offset + s.pendingCount then raise (.writeOob s.offset s.pendingCount) s
    else .done () s.applyBatch
  else skip s

/-- `onStop()` (R108): `txState <- Idle` whether or not bytes were pending (C5). -/
def onStop (s : State) : Flow Unit :=
  (stopBatch (beginCallback s)).andThen (fun _ t => .done () t.goIdle)

end Sys2Proof.Machine
end

