-- ==== Sys2Proof/Machine/BusEvents.lean ====
section
/-! DEFINITION. The bus protocol state machine: one meaning per event (R85–R95), each the event step of R84 around its
action. Which action runs depends on the event kind alone (R83). -/

namespace Sys2Proof.Machine

/-- `b <- onRequestByte(); emit TxByte(b)` (R84, R89, R90). -/
def transmitNext (s : State) : Flow Unit :=
  (onRequestByte s).andThen (fun b t => .done () (t.emit (.txByte b)))

/-- `emit RecoverBusError` (R94): no callback, no buffer-manager state changes (R113). -/
def recoverBus (s : State) : Flow Unit := .done () (s.emit .recoverBusError)

/-- `SR_ADDR` (R85). -/
def execSrAddr (s : State) : Host.Outcome State Fault Refusal := busEvent onStart true s

/-- `SR_DATA_ACK` (R86). -/
def execSrDataAck (b : Byte) (s : State) : Host.Outcome State Fault Refusal := busEvent (onReceiveByte b) true s

/-- `SR_DATA_NACK` (R87): the byte is dropped and not counted. -/
def execSrDataNack (_b : Byte) (s : State) : Host.Outcome State Fault Refusal := busEvent skip true s

/-- `SR_STOP` (R88). -/
def execSrStop (s : State) : Host.Outcome State Fault Refusal := busEvent onStop true s

/-- `ST_ADDR` (R89): does not invoke `onStart`. -/
def execStAddr (s : State) : Host.Outcome State Fault Refusal := busEvent transmitNext true s

/-- `ST_DATA_ACK` (R90). -/
def execStDataAck (s : State) : Host.Outcome State Fault Refusal := busEvent transmitNext true s

/-- `ST_DATA_NACK` (R91). -/
def execStDataNack (s : State) : Host.Outcome State Fault Refusal := busEvent skip true s

/-- `ST_LAST_DATA` (R92). -/
def execStLastData (s : State) : Host.Outcome State Fault Refusal := busEvent skip true s

/-- `NO_INFO` (R93). -/
def execNoInfo (s : State) : Host.Outcome State Fault Refusal := busEvent skip true s

/-- `BUS_ERROR` (R94): the one event whose acknowledge is a parameter (R96). -/
def execBusError (s : State) : Host.Outcome State Fault Refusal := busEvent recoverBus s.cfg.ackAfterBusError s

/-- `OTHER` (R95): acknowledged and nothing more. -/
def execOther (_status : BitVec 5) (s : State) : Host.Outcome State Fault Refusal := busEvent skip true s

end Sys2Proof.Machine
end

