-- ==== Sys2Proof/Machine/HostCall.lean ====
section
/-! DEFINITION. The host call `INIT` (R133–R136). -/

namespace Sys2Proof.Machine

/-- The legal 7-bit addresses, `0x08 .. 0x77` (R136). -/
def legalAddress (addr : Addr7) : Bool := decide (0x08 ≤ addr.toNat) && decide (addr.toNat ≤ 0x77)

/-- `INIT(addr)` (R133): the double-initialisation check comes first (R150). -/
def initBody (addr : Addr7) (s : State) : Flow Unit :=
  if s.initDone then raise (.doubleInit addr) s
  else if legalAddress addr then .done () (s.register addr)
  else raise (.badAddress addr) s

/-- `INIT addr` (R133). -/
def execInit (addr : Addr7) (s : State) : Host.Outcome State Fault Refusal := mainlineCall (initBody addr) s

end Sys2Proof.Machine
end

