-- ==== Sys2Proof/Machine/Dispatch.lean ====
section
/-! DEFINITION. One arm per input kind (R75, R84). -/

namespace Sys2Proof.Machine

def exec (i : Instr) (s : State) : Host.Outcome State Fault Refusal :=
  match i with
  | .srAddr => Sys2Proof.Machine.execSrAddr s
  | .srDataAck b => Sys2Proof.Machine.execSrDataAck b s
  | .srDataNack b => Sys2Proof.Machine.execSrDataNack b s
  | .srStop => Sys2Proof.Machine.execSrStop s
  | .stAddr => Sys2Proof.Machine.execStAddr s
  | .stDataAck => Sys2Proof.Machine.execStDataAck s
  | .stDataNack => Sys2Proof.Machine.execStDataNack s
  | .stLastData => Sys2Proof.Machine.execStLastData s
  | .noInfo => Sys2Proof.Machine.execNoInfo s
  | .busError => Sys2Proof.Machine.execBusError s
  | .other status => Sys2Proof.Machine.execOther status s
  | .snapshot => Sys2Proof.Machine.execSnapshot s
  | .commit => Sys2Proof.Machine.execCommit s
  | .uread k => Sys2Proof.Machine.execUread k s
  | .uwrite k v => Sys2Proof.Machine.execUwrite k v s
  | .init addr => Sys2Proof.Machine.execInit addr s

end Sys2Proof.Machine
end

