-- ==== Sys2Proof/Machine/Ports.lean ====
section
/-! DEFINITION. How the next input reaches the machine: address matching by the peripheral (R81, R82), the two ports
(R64), and which agent moves next (R17, R135, R153). -/

namespace Sys2Proof.Machine

/-- The direction bit of an address byte: 1 when the master reads (R81). -/
def readDirection (byte : Byte) : Bool := byte.getLsbD 0

/-- The 7-bit address of an address byte: bits `[7:1]` (R81). -/
def addressField (byte : Byte) : Addr7 := byte.extractLsb' 1 7

/-- The event the peripheral delivers for an address byte: none when the address differs (R81, R82). -/
def matchAddress (own : Addr7) (byte : Byte) : Option Instr :=
  if addressField byte = own then some (if readDirection byte then .stAddr else .srAddr) else none

/-- The event a bus input delivers to the block, if any. -/
def busInstr (s : State) : BusInput → Option Instr
  | .event w => some (decodeBus s.cfg.eventCodes w)
  | .address byte => matchAddress s.ownAddr byte

/-- What the machine takes next. -/
inductive Fetched where
  /-- no agent has an input it may take -/
  | nothing
  /-- the next call word is reserved (R73) -/
  | reserved (e : DecodeError)
  /-- the bus input delivers no event: an address byte that does not match (R82) -/
  | ignored (s : State)
  /-- an input of the block, and the state with that input taken from its port -/
  | run (i : Instr) (s : State)
  deriving DecidableEq, Repr

/-- The bus agent takes the head of its port. -/
def fetchBus (s : State) (x : BusInput) (rest : List BusInput) : Fetched :=
  match busInstr s x with
  | some i => .run i (s.takeBus rest)
  | none => .ignored (s.takeBus rest)

/-- The application agent takes the head of its port. -/
def fetchCall (s : State) (w : CallWord) (rest : List CallWord) : Fetched :=
  match decodeCall w with
  | .ok i => .run i (s.takeCall rest)
  | .error e => .reserved e

/-- No bus event is enabled before `INIT` (R135); between a pending bus event and the application's next call either may
go first (R153), a free choice. -/
def fetch (s : State) : Fetched :=
  match s.initDone, s.busPort, s.callPort with
  | true, x :: xs, [] => fetchBus s x xs
  | true, x :: xs, w :: ws => if Config.busFirst s.choices then fetchBus s x xs else fetchCall s w ws
  | true, [], w :: ws => fetchCall s w ws
  | false, _, w :: ws => fetchCall s w ws
  | true, [], [] => .nothing
  | false, _, [] => .nothing

/-- `s` with one word at the head of its port and the other port empty, so that it is taken next. A bus event is
delivered only after `INIT` (R135), so the peripheral is then enabled. -/
def placeWord (s : State) : PortWord → State
  | .bus w => { s with busPort := .event w :: s.busPort, callPort := [], initDone := true }
  | .call w => { s with callPort := w :: s.callPort, busPort := [] }

end Sys2Proof.Machine
end

