-- ==== Sys2Proof/Machine/Step.lean ====
section
/-! DEFINITION. One step: the next input is taken from its port and given its meaning, atomically (R12, R52). -/

namespace Sys2Proof.Machine

/-- One step of the machine. While a fault is recorded no agent has a step (R148). -/
def step (s : State) : Host.Outcome State Fault Refusal :=
  whenNoFault s
    (match fetch s with
     | .nothing => .refused .noInput
     | .reserved e => .refused (.reservedCall e)
     | .ignored t => .next t
     | .run i t => exec i t)

/-- `s` with the table row's word placed where the next step takes it (log entry 2). -/
def State.withFetchWord (s : State) (nbits w : Nat) : State :=
  match tableWord nbits w with
  | none => s
  | some pw => placeWord s pw

end Sys2Proof.Machine
end

