-- ==== Sys2Proof/Machine/Codes.lean ====
section
/-! DEFINITION. Numeric encodings the spec fixes for its own labels: `txState` (R21) and the fault codes (R149). -/

namespace Sys2Proof.Machine

/-- Idle = 0, AwaitingOffset = 1, Active = 2 (R21). -/
def TxState.code : TxState → Nat
  | .idle => 0
  | .awaitingOffset => 1
  | .active => 2

/-- The fault codes of R149. -/
def FaultRecord.code : FaultRecord → Nat
  | .rxIdle _ => 1
  | .readNoOffset => 2
  | .readOob _ => 3
  | .writeOob _ _ => 4
  | .conflict _ => 5
  | .appNoTurn _ => 6
  | .appIndex _ => 7
  | .doubleInit _ => 8
  | .badAddress _ => 9

end Sys2Proof.Machine
end

