-- ==== Sys2Proof/Machine/Sequences.lean ====
section
/-! DEFINITION. Sequences of inputs that claims speak of: the pseudo-inputs of a standard master (R77), the optional
grammar of bus sequences (R79), and running a sequence of inputs in order. -/

namespace Sys2Proof.Machine

/-- Run inputs one after the other; stop where one is given no next state. -/
def execAll : List Instr → State → Host.Outcome State Fault Refusal
  | [], s => .next s
  | i :: is, s =>
    match exec i s with
    | .next t => execAll is t
    | .fault r => .fault r
    | .refused r => .refused r

/-- `MWRITE off, b0, …` (R77). -/
def mwrite (off : Byte) (data : List Byte) : List Instr :=
  [.srAddr, .srDataAck off] ++ data.map .srDataAck ++ [.srStop]

/-- `MSETOFF off` ≡ `MWRITE off` (R77). -/
def msetoff (off : Byte) : List Instr := mwrite off []

/-- `MPROBE` (R77). -/
def mprobe : List Instr := [.srAddr, .srStop]

/-- `MREAD k` for `k ≥ 1`: `ST_ADDR`, then `k-1` times `ST_DATA_ACK`, then `ST_DATA_NACK` (R77). -/
def mread (k : Nat) : List Instr := [.stAddr] ++ List.replicate (k - 1) .stDataAck ++ [.stDataNack]

/-- `MWRITEREAD off, k` (R77). -/
def mwriteread (off : Byte) (k : Nat) : List Instr := msetoff off ++ mread k

/-- Where a well-formed bus sequence stands: between elements, inside a write, inside a read (R79). -/
inductive BusPhase where
  | between
  | inWrite
  | inRead
  deriving DecidableEq, Repr

/-- The phase after one event, if the grammar of R79 allows the event there. R79 lists `SR_DATA_NACK` and `ST_LAST_DATA` in
the grammar, and R80 says that they never occur in a well-formed sequence. DESIGN CHOICE (log entry 23): both are allowed. -/
def nextPhase : BusPhase → Instr → Option BusPhase
  | p, .noInfo => some p
  | _, .busError => some .between
  | .between, .srAddr => some .inWrite
  | .inWrite, .srDataAck _ => some .inWrite
  | .inWrite, .srDataNack _ => some .inWrite
  | .inWrite, .srStop => some .between
  | .between, .stAddr => some .inRead
  | .inRead, .stDataAck => some .inRead
  | .inRead, .stDataNack => some .between
  | .inRead, .stLastData => some .between
  | _, _ => none

/-- The grammar from a phase on. -/
def wellFormedFrom : BusPhase → List Instr → Bool
  | p, [] => decide (p = .between)
  | p, i :: is =>
    match nextPhase p i with
    | some q => wellFormedFrom q is
    | none => false

/-- A well-formed bus sequence (R79, with its two events that R80 rules out: log entry 23): an optional premise of a claim; the
machine admits every sequence (R78). -/
def wellFormedSequence (is : List Instr) : Bool := wellFormedFrom .between is

end Sys2Proof.Machine
end

