-- ==== Sys2Proof/Safety.lean ====
section
/-! DEFINITION. What a claim may speak of (R18), when a run counts (R148), and the invariants that hold between any two
steps (R38). -/

namespace Sys2Proof.Machine

/-- What a claim can observe (R18): the two buffers, the output trace and the fault record. -/
structure Observed where
  staging : Memory
  userBuffer : Memory
  outTrace : List Output
  faults : List FaultRecord
  deriving DecidableEq, Repr

/-- The observation of a state (R18). -/
def State.observed (s : State) : Observed :=
  { staging := s.staging, userBuffer := s.userBuffer, outTrace := s.outTrace, faults := s.faults }

/-- "A run whose fault record is non-empty satisfies no claim" (R18, R148). -/
abbrev State.Safe (s : State) : Prop := s.faults = []

/-- One buffer copy of `n` bytes: canonical form, no position at or beyond `n` (R42, R46). -/
def Memory.fits (n : Nat) (m : Memory) : Bool := m.wf && m.below n

/-- The bits of `busTouched`: canonical form, no position at or beyond `n` (R30). -/
def PosSet.fits (n : Nat) (l : PosSet) : Bool := l.wf && l.all (fun p => decide (p < n))

/-- The invariants of R38, with those the model's own representation adds. Invariant 2 of R38 speaks of the past and is a
statement about steps; invariants 3 and 4 are statements about steps as well. -/
structure State.Inv (s : State) : Prop where
  /-- the parameters are in their ranges (R6, R68) -/
  cfg : s.cfg.wf = true
  /-- R38.1: `pendingCount ≤ CAP` -/
  count : s.pendingCount ≤ s.cfg.cap
  /-- R38.5: Active implies that an offset has been received -/
  active : s.txState = .active → s.offsetValid = true
  /-- R38.6: `offset ≤ 256` -/
  offset : s.offset ≤ 256
  /-- R38.7: Idle implies an empty batch -/
  idle : s.txState = .idle → s.pendingCount = 0
  /-- R38.8: a pending byte implies that an offset has been received -/
  pending : 0 < s.pendingCount → s.offsetValid = true
  /-- the cells of `pendingWrites` are its `CAP` cells (R24) -/
  batch : s.pendingWrites.fits s.cfg.cap = true
  /-- R42 -/
  staging : s.staging.fits s.cfg.size = true
  /-- R42 -/
  readBuffer : s.transactionReadBuffer.fits s.cfg.size = true
  /-- R42 -/
  user : s.userBuffer.fits s.cfg.size = true
  /-- R42 -/
  snap : s.userBufferSnapshot.fits s.cfg.size = true
  /-- R30 -/
  touched : s.busTouched.fits s.cfg.size = true
  /-- after `INIT` the address is a legal one (R133, R136) -/
  address : s.initDone = true → legalAddress s.ownAddr = true
  /-- a step raises at most one fault and none follows it (R148, R150) -/
  oneFault : s.faults.length ≤ 1
  /-- `RefuseNext` is never emitted (R138) -/
  noRefuse : Output.refuseNext ∉ s.outTrace

end Sys2Proof.Machine
end

