-- ==== Sys2Proof/Certificates/Slice0/Obligations.lean ====
section
/-! DEFINITION. The statements for the provers: what the spec's numbered rules say the block does. -/

open Sys2Proof Sys2Proof.Machine

namespace Sys2Proof.Claims

/-- The events that invoke a callback (R75), which then begins with `Delay(DELAY_US)` (R100). -/
def invokesCallback : Instr → Bool
  | .srAddr | .srDataAck _ | .srStop | .stAddr | .stDataAck => true
  | _ => false

/-- The events that transmit a byte (R89, R90). -/
def transmits : Instr → Bool
  | .stAddr | .stDataAck => true
  | _ => false

/-- The outputs of a callback's delay (R100). -/
def delayOutput (i : Instr) (s : State) : List Output :=
  if invokesCallback i then [.delay s.cfg.delayUs] else []

/-- The conditions under which a bus event step is enabled (R84). -/
def Enabled (s : State) : Prop := s.faults = [] ∧ s.initDone = true

/-- The two instructions a byte is requested by (R106). -/
def requests : List Instr := [.stAddr, .stDataAck]

/-- The application changed byte `p` in this turn and the bus wrote it in this turn (R123). -/
def conflictAt (s : State) (p : Nat) : Prop :=
  p < s.cfg.size ∧ s.userBuffer.read p ≠ s.userBufferSnapshot.read p ∧ p ∈ s.busTouched

end Sys2Proof.Claims

open Sys2Proof.Claims

/-! ### Decoding and the step -/

/-- The input at the head of a port is decoded and given the meaning `exec` gives it, with that input taken from its port;
when both ports hold an input (after `INIT`) either goes first. The ports and the free order are the model's choice (log
entries 2 and 3). -/
def Obligations.StepRunsTheDecodedInput : Prop :=
  ∀ s : State, s.faults = [] →
    (∀ w xs, s.initDone = true → s.busPort = .event w :: xs → s.callPort = [] →
      step s = exec (decodeBus s.cfg.eventCodes w) { s with busPort := xs, choices := s.choices + 1 }) ∧
    (∀ w ws i, (s.initDone = false ∨ s.busPort = []) → s.callPort = w :: ws → decodeCall w = .ok i →
      step s = exec i { s with callPort := ws, choices := s.choices + 1 }) ∧
    (∀ b xs w ws i, s.initDone = true → s.busPort = .event b :: xs → s.callPort = w :: ws → decodeCall w = .ok i →
      step s = exec (decodeBus s.cfg.eventCodes b) { s with busPort := xs, choices := s.choices + 1 } ∨
      step s = exec i { s with callPort := ws, choices := s.choices + 1 })

/-- Words written out from R65, R67 and R69 decode to the inputs they stand for, under the default event codes
(the spec's, from general knowledge: log entry 7). -/
def Obligations.WrittenOutWordsDecode : Prop :=
  decodeBus EventCodes.default 0x0060#16 = .srAddr ∧
  decodeBus EventCodes.default 0x0580#16 = .srDataAck 0x05 ∧
  decodeBus EventCodes.default 0x2288#16 = .srDataNack 0x22 ∧
  decodeBus EventCodes.default 0x0070#16 = .other 0b01110#5 ∧
  decodeCall 0x000001#24 = .ok .commit ∧
  decodeCall 0x770203#24 = .ok (.uwrite 0x02 0x77) ∧
  decodeCall 0x001408#24 = .ok (.init 0x14) ∧
  decodeCall 0x009408#24 = .error .addressBit7

/-- R68. -/
def Obligations.BusDecoderSelectsTheRowOfTheStatus : Prop :=
  EventCodes.default.wf = true ∧
  ∀ (c : EventCodes) (w : BusWord), c.wf = true →
    (w.extractLsb' 0 8 &&& 0xF8#8 = c.srAddr → decodeBus c w = .srAddr) ∧
    (w.extractLsb' 0 8 &&& 0xF8#8 = c.srDataAck → decodeBus c w = .srDataAck (w.extractLsb' 8 8)) ∧
    (w.extractLsb' 0 8 &&& 0xF8#8 = c.srDataNack → decodeBus c w = .srDataNack (w.extractLsb' 8 8)) ∧
    (w.extractLsb' 0 8 &&& 0xF8#8 = c.srStop → decodeBus c w = .srStop) ∧
    (w.extractLsb' 0 8 &&& 0xF8#8 = c.stAddr → decodeBus c w = .stAddr) ∧
    (w.extractLsb' 0 8 &&& 0xF8#8 = c.stDataAck → decodeBus c w = .stDataAck) ∧
    (w.extractLsb' 0 8 &&& 0xF8#8 = c.stDataNack → decodeBus c w = .stDataNack) ∧
    (w.extractLsb' 0 8 &&& 0xF8#8 = c.stLastData → decodeBus c w = .stLastData) ∧
    (w.extractLsb' 0 8 &&& 0xF8#8 = c.noInfo → decodeBus c w = .noInfo) ∧
    (w.extractLsb' 0 8 &&& 0xF8#8 = c.busError → decodeBus c w = .busError) ∧
    (w.extractLsb' 0 8 &&& 0xF8#8 ∉ c.toList → decodeBus c w = .other (w.extractLsb' 3 5))

/-- R65, R66: bits `[2:0]` select nothing, and the data byte matters to the two data events only. -/
def Obligations.IgnoredBitsOfABusWordChangeNothing : Prop :=
  ∀ (c : EventCodes) (w w' : BusWord), w.extractLsb' 3 5 = w'.extractLsb' 3 5 →
    (w.extractLsb' 8 8 = w'.extractLsb' 8 8 → decodeBus c w = decodeBus c w') ∧
    ((∀ b, decodeBus c w ≠ .srDataAck b) → (∀ b, decodeBus c w ≠ .srDataNack b) → decodeBus c w = decodeBus c w')

/-- R73: exactly the reserved words are refused, and a refused word is given no step: with nothing on the bus `step` answers
a refusal, and with a bus input waiting it does so or takes the bus input and leaves the word. That `step` answers a refusal
is the model's choice (log entry 13), as are the ports and their order (log entries 2 and 3). -/
def Obligations.ReservedCallWordsAreRefused : Prop :=
  ∀ w : CallWord,
    ((∃ e, decodeCall w = .error e) ↔
      ((4 ≤ (w.extractLsb' 0 4).toNat ∧ (w.extractLsb' 0 4).toNat ≤ 7) ∨ 9 ≤ (w.extractLsb' 0 4).toNat ∨
        w.extractLsb' 4 4 ≠ 0 ∨
        ((w.extractLsb' 0 4 = 0x0 ∨ w.extractLsb' 0 4 = 0x1) ∧ (w.extractLsb' 8 8 ≠ 0 ∨ w.extractLsb' 16 8 ≠ 0)) ∨
        (w.extractLsb' 0 4 = 0x2 ∧ w.extractLsb' 16 8 ≠ 0) ∨
        (w.extractLsb' 0 4 = 0x8 ∧ (w.extractLsb' 16 8 ≠ 0 ∨ w.getLsbD 15 = true)))) ∧
    (∀ (s : State) e ws, decodeCall w = .error e → s.faults = [] → s.callPort = w :: ws →
      (s.initDone = false ∨ s.busPort = []) → step s = .refused (.reservedCall e)) ∧
    (∀ (s : State) e ws x xs, decodeCall w = .error e → s.faults = [] → s.callPort = w :: ws → s.initDone = true →
      s.busPort = x :: xs → step s = .refused (.reservedCall e) ∨
        (∃ i, busInstr s x = some i ∧ step s = exec i { s with busPort := xs, choices := s.choices + 1 }) ∨
        (busInstr s x = none ∧ step s = .next { s with busPort := xs, choices := s.choices + 1 }))

/-- Decoding an encoded well-formed input gives it back, for every input kind, every operand and every choice of event
codes that R68 allows. -/
def Obligations.DecodeOfEncodeIsTheInput : Prop :=
  ∀ (c : EventCodes) (i : Instr), c.wf = true → i.wf c = true → decode c (encode c i) = .ok i

/-! ### Bus events -/

/-- R101: `SR_ADDR` takes the snapshot and opens the transaction; nothing else ever writes `transactionReadBuffer`. -/
def Obligations.OnlyAddressedForWriteCopiesStaging : Prop :=
  (∀ s : State, Enabled s → exec .srAddr s = .next { s with
      transactionReadBuffer := s.staging, txState := .awaitingOffset,
      outTrace := s.outTrace ++ [.delay s.cfg.delayUs, .ackNext] }) ∧
  (∀ i s t, i ≠ .srAddr → exec i s = .next t → t.transactionReadBuffer = s.transactionReadBuffer)

/-- R103: the first byte after addressing is the offset. -/
def Obligations.FirstReceivedByteIsTheOffset : Prop :=
  ∀ (s : State) (b : Byte), Enabled s → s.txState = .awaitingOffset →
    exec (.srDataAck b) s = .next { s with
      offset := b.toNat, offsetValid := true, txState := .active,
      outTrace := s.outTrace ++ [.delay s.cfg.delayUs, .ackNext] }

/-- R104: later bytes are appended to the batch; the byte that finds it full starts a new one. -/
def Obligations.DataByteIsAppendedToTheBatch : Prop :=
  ∀ (s : State) (b : Byte), s.Inv → Enabled s → s.txState = .active →
    ∃ t, exec (.srDataAck b) s = .next t ∧
      (s.pendingCount = s.cfg.cap → t.pendingCount = 1 ∧ t.pendingWrites.read 0 = b ∧
        ∀ j, j ≠ 0 → t.pendingWrites.read j = s.pendingWrites.read j) ∧
      (s.pendingCount ≠ s.cfg.cap → t.pendingCount = s.pendingCount + 1 ∧ t.pendingWrites.read s.pendingCount = b ∧
        ∀ j, j ≠ s.pendingCount → t.pendingWrites.read j = s.pendingWrites.read j) ∧
      t = { s with pendingWrites := t.pendingWrites, pendingCount := t.pendingCount,
                   outTrace := s.outTrace ++ [.delay s.cfg.delayUs, .ackNext] }

/-- R105: a data byte in Idle raises `F_RX_IDLE`, recorded with the byte (R149); only the delay (R102) is emitted. -/
def Obligations.DataByteInIdleRaisesRxIdle : Prop :=
  ∀ (s : State) (b : Byte), Enabled s → s.txState = .idle →
    exec (.srDataAck b) s = .next { s with
      faults := [.rxIdle b], outTrace := s.outTrace ++ [.delay s.cfg.delayUs] }

/-- R106, R107: a requested byte is `transactionReadBuffer[offset]`, in every `txState`; the two faults in their order. -/
def Obligations.RequestedByteComesFromTheReadBuffer : Prop :=
  ∀ (s : State) (i : Instr), i ∈ requests → Enabled s →
    (s.offsetValid = true → s.offset < s.cfg.size → exec i s = .next { s with
      offset := s.offset + 1,
      outTrace := s.outTrace ++
        [.delay s.cfg.delayUs, .txByte (s.transactionReadBuffer.read s.offset), .ackNext] }) ∧
    (s.offsetValid = false → exec i s = .next { s with
      faults := [.readNoOffset], outTrace := s.outTrace ++ [.delay s.cfg.delayUs] }) ∧
    (s.offsetValid = true → s.cfg.size ≤ s.offset → exec i s = .next { s with
      faults := [.readOob s.offset], outTrace := s.outTrace ++ [.delay s.cfg.delayUs] })

/-- R108, R109, R110: `SR_STOP` writes the batch at `offset`, byte by byte, and no other byte; marks exactly those
positions while a turn is open; always returns to Idle; and faults before any write when the batch would pass the end. -/
def Obligations.StopAppliesTheBatchAtTheOffset : Prop :=
  ∀ s : State, s.Inv → Enabled s →
    (s.pendingCount = 0 → exec .srStop s = .next { s with
      txState := .idle, outTrace := s.outTrace ++ [.delay s.cfg.delayUs, .ackNext] }) ∧
    (0 < s.pendingCount → s.offset + s.pendingCount ≤ s.cfg.size →
      ∃ t, exec .srStop s = .next t ∧
        (∀ j, j < s.pendingCount → t.staging.read (s.offset + j) = s.pendingWrites.read j) ∧
        (∀ p, p < s.offset ∨ s.offset + s.pendingCount ≤ p → t.staging.read p = s.staging.read p) ∧
        (∀ p, p ∈ t.busTouched ↔
          p ∈ s.busTouched ∨ (s.appTurn = .opened ∧ s.offset ≤ p ∧ p < s.offset + s.pendingCount)) ∧
        (s.appTurn ≠ .opened → t.busTouched = s.busTouched) ∧
        t = { s with staging := t.staging, busTouched := t.busTouched, pendingCount := 0, txState := .idle,
                     outTrace := s.outTrace ++ [.delay s.cfg.delayUs, .ackNext] }) ∧
    (0 < s.pendingCount → s.cfg.size < s.offset + s.pendingCount → exec .srStop s = .next { s with
      faults := [.writeOob s.offset s.pendingCount], outTrace := s.outTrace ++ [.delay s.cfg.delayUs] })

/-- R87, R91, R92, R93, R95: five events are acknowledged and change nothing. -/
def Obligations.UnusedEventsAreOnlyAcknowledged : Prop :=
  ∀ (s : State) (i : Instr), Enabled s →
    ((∃ b, i = .srDataNack b) ∨ i = .stDataNack ∨ i = .stLastData ∨ i = .noInfo ∨ (∃ st, i = .other st)) →
    exec i s = .next { s with outTrace := s.outTrace ++ [.ackNext] }

/-- R94, R113: a bus error recovers the bus and changes no buffer-manager state; the acknowledge is a parameter. -/
def Obligations.BusErrorOnlyRecoversTheBus : Prop :=
  ∀ s : State, Enabled s →
    (s.cfg.ackAfterBusError = true →
      exec .busError s = .next { s with outTrace := s.outTrace ++ [.recoverBusError, .ackNext] }) ∧
    (s.cfg.ackAfterBusError = false →
      exec .busError s = .next { s with outTrace := s.outTrace ++ [.recoverBusError] })

/-- R98 (and R84, R96, R100): what an event step that raises nothing emits, and in which order. -/
def Obligations.EventOutputsAreInOrder : Prop :=
  ∀ i s t, i.isBusEvent = true → exec i s = .next t → t.faults = [] →
    t.outTrace = s.outTrace ++ delayOutput i s ++
      (if transmits i then [.txByte (s.transactionReadBuffer.read s.offset)] else []) ++
      (if i = .busError then [.recoverBusError] else []) ++
      (if i ≠ .busError ∨ s.cfg.ackAfterBusError = true then [.ackNext] else [])

/-- R138: no input ever emits `RefuseNext`. -/
def Obligations.RefuseNextIsNeverEmitted : Prop :=
  ∀ i s t, exec i s = .next t → ∃ l, t.outTrace = s.outTrace ++ l ∧ Output.refuseNext ∉ l

/-- R135: before `INIT` no bus event has a step, and with no call to make the machine stands still. That
`exec` and `step` answer refusals, and their names, are the model's choice (log entries 11 and 12). -/
def Obligations.NoBusEventBeforeInit : Prop :=
  (∀ i s, i.isBusEvent = true → s.faults = [] → s.initDone = false → exec i s = .refused .busDisabled) ∧
  (∀ s : State, s.faults = [] → s.initDone = false → s.callPort = [] → step s = .refused .noInput)

/-- R81: an address byte that matches delivers `SR_ADDR` or `ST_ADDR` by its direction bit. An address byte as
an input of the bus port is the model's choice (log entry 14). -/
def Obligations.MatchingAddressByteDeliversItsEvent : Prop :=
  ∀ (s : State) (a : Byte) xs, Enabled s → s.busPort = .address a :: xs → s.callPort = [] →
    a.extractLsb' 1 7 = s.ownAddr →
    (a.getLsbD 0 = false → step s = exec .srAddr { s with busPort := xs, choices := s.choices + 1 }) ∧
    (a.getLsbD 0 = true → step s = exec .stAddr { s with busPort := xs, choices := s.choices + 1 })

/-- R82: an address byte that does not match delivers no event and leaves the block's state; after `INIT` neither the
general-call address nor any other reserved one matches (R136). R82 says that the block takes no step: that the byte is an
input of the bus port, taken by a step of the machine, is the model's choice (log entry 14). -/
def Obligations.UnmatchedAddressByteDeliversNoEvent : Prop :=
  ∀ (s : State) (a : Byte) xs, Enabled s → s.busPort = .address a :: xs → s.callPort = [] →
    (a.extractLsb' 1 7 ≠ s.ownAddr → step s = .next { s with busPort := xs, choices := s.choices + 1 }) ∧
    (s.Inv → (a.extractLsb' 1 7).toNat < 0x08 ∨ 0x77 < (a.extractLsb' 1 7).toNat →
      step s = .next { s with busPort := xs, choices := s.choices + 1 })

/-! ### Application and host calls -/

/-- R120, R121: `SNAPSHOT` in every turn state. -/
def Obligations.SnapshotCopiesStagingInEveryTurnState : Prop :=
  ∀ s : State, s.faults = [] → exec .snapshot s = .next { s with
    userBuffer := s.staging, userBufferSnapshot := s.staging, busTouched := [], appTurn := .opened }

/-- R50: two `SNAPSHOT`s with nothing between leave the same state as one. -/
def Obligations.SecondSnapshotChangesNothing : Prop :=
  ∀ s t, exec .snapshot s = .next t → exec .snapshot t = .next t

/-- R122, R123, R124: `COMMIT` writes exactly the changed bytes; its two faults come before any write. -/
def Obligations.CommitWritesExactlyTheChangedBytes : Prop :=
  ∀ s : State, s.Inv → s.faults = [] →
    (s.appTurn = .opened → (∀ p, ¬ conflictAt s p) →
      ∃ t, exec .commit s = .next t ∧
        (∀ p, p < s.cfg.size → s.userBuffer.read p ≠ s.userBufferSnapshot.read p →
          t.staging.read p = s.userBuffer.read p) ∧
        (∀ p, s.cfg.size ≤ p ∨ s.userBuffer.read p = s.userBufferSnapshot.read p →
          t.staging.read p = s.staging.read p) ∧
        t = { s with staging := t.staging, appTurn := .closed }) ∧
    (∀ p, s.appTurn = .opened → conflictAt s p → (∀ q, q < p → ¬ conflictAt s q) →
      exec .commit s = .next { s with faults := [.conflict p] }) ∧
    (s.appTurn ≠ .opened → exec .commit s = .next { s with faults := [.appNoTurn .commit] })

/-- R126, R128: `UREAD` returns one byte of `userBuffer` and changes no other state. That the byte is kept in
`appResults` is the model's choice (log entry 10). -/
def Obligations.UreadReturnsTheByte : Prop :=
  ∀ (s : State) (i : Byte), s.faults = [] →
    (s.appTurn = .opened → i.toNat < s.cfg.size →
      exec (.uread i) s = .next { s with appResults := s.appResults ++ [s.userBuffer.read i.toNat] }) ∧
    (s.appTurn ≠ .opened → exec (.uread i) s = .next { s with faults := [.appNoTurn (.uread i)] }) ∧
    (s.appTurn = .opened → s.cfg.size ≤ i.toNat → exec (.uread i) s = .next { s with faults := [.appIndex i] })

/-- R127: `UWRITE` writes one byte of `userBuffer` and no other. R128: the faults of `UWRITE`, and those of `UREAD`, in their
order. -/
def Obligations.UwriteWritesOneByteOfUserBuffer : Prop :=
  ∀ (s : State) (i v : Byte), s.Inv → s.faults = [] →
    (s.appTurn = .opened → i.toNat < s.cfg.size →
      ∃ t, exec (.uwrite i v) s = .next t ∧ t.userBuffer.read i.toNat = v ∧
        (∀ p, p ≠ i.toNat → t.userBuffer.read p = s.userBuffer.read p) ∧ t = { s with userBuffer := t.userBuffer }) ∧
    (s.appTurn ≠ .opened → exec (.uwrite i v) s = .next { s with faults := [.appNoTurn (.uwrite i v)] }) ∧
    (s.appTurn = .opened → s.cfg.size ≤ i.toNat → exec (.uwrite i v) s = .next { s with faults := [.appIndex i] }) ∧
    (s.appTurn ≠ .opened → exec (.uread i) s = .next { s with faults := [.appNoTurn (.uread i)] }) ∧
    (s.appTurn = .opened → s.cfg.size ≤ i.toNat → exec (.uread i) s = .next { s with faults := [.appIndex i] })

/-- R133, R134, R136: `INIT` once, with a legal address. -/
def Obligations.InitRegistersOnce : Prop :=
  ∀ (s : State) (a : Addr7), s.faults = [] →
    (s.initDone = false → 0x08 ≤ a.toNat → a.toNat ≤ 0x77 →
      exec (.init a) s = .next { s with ownAddr := a, initDone := true }) ∧
    (s.initDone = true → exec (.init a) s = .next { s with faults := [.doubleInit a] }) ∧
    (s.initDone = false → a.toNat < 0x08 ∨ 0x77 < a.toNat →
      exec (.init a) s = .next { s with faults := [.badAddress a] })

/-! ### Whole-machine rules -/

/-- R148, R150: with a fault recorded nothing has a step; a step raises at most one fault; a step that raises changes
nothing but the record and keeps only the outputs emitted before. That a raise is a next state, and that
`exec` and `step` answer the fault `halted` after it, is the model's reading (log entry 9). -/
def Obligations.RecordedFaultStopsTheMachine : Prop :=
  (∀ i s, s.faults ≠ [] → ∃ r, exec i s = .fault (.halted r)) ∧
  (∀ s, s.faults ≠ [] → ∃ r, step s = .fault (.halted r)) ∧
  (∀ i s t, exec i s = .next t → s.faults = [] ∧
    (t.faults = [] ∨ ∃ r, t = { s with faults := [r], outTrace := s.outTrace ++ delayOutput i s }))

/-- R39, R43, R44: which agent's steps may change which state. `appResults` is the model's own field (log entry 10). -/
def Obligations.EachAgentWritesOnlyItsOwnState : Prop :=
  (∀ i s t, i.isBusEvent = true → exec i s = .next t →
    t.userBuffer = s.userBuffer ∧ t.userBufferSnapshot = s.userBufferSnapshot ∧ t.appTurn = s.appTurn ∧
    t.initDone = s.initDone ∧ t.ownAddr = s.ownAddr ∧ t.appResults = s.appResults) ∧
  (∀ i s t, i.isBusEvent = false → exec i s = .next t →
    t.txState = s.txState ∧ t.offset = s.offset ∧ t.offsetValid = s.offsetValid ∧
    t.pendingWrites = s.pendingWrites ∧ t.pendingCount = s.pendingCount ∧
    t.transactionReadBuffer = s.transactionReadBuffer ∧ t.outTrace = s.outTrace)

/-- R25, R38.4: `staging` changes only in `SR_STOP` and `COMMIT` steps. -/
def Obligations.OnlyStopAndCommitWriteStaging : Prop :=
  ∀ i s t, i ≠ .srStop → i ≠ .commit → exec i s = .next t → t.staging = s.staging

/-- R99: how `txState` moves in a step that raises nothing. -/
def Obligations.TransactionStateTable : Prop :=
  ∀ i s t, exec i s = .next t → t.faults = [] →
    (i = .srAddr → t.txState = .awaitingOffset) ∧
    (∀ b, i = .srDataAck b → s.txState ≠ .idle ∧ t.txState = .active) ∧
    (i = .srStop → t.txState = .idle) ∧
    (i ≠ .srAddr → (∀ b, i ≠ .srDataAck b) → i ≠ .srStop → t.txState = s.txState)

/-- R129: how `appTurn` moves in a step that raises nothing. -/
def Obligations.TurnDisciplineTable : Prop :=
  ∀ i s t, exec i s = .next t → t.faults = [] →
    (i = .snapshot → t.appTurn = .opened) ∧
    (i = .commit → s.appTurn = .opened ∧ t.appTurn = .closed) ∧
    (∀ k, i = .uread k → s.appTurn = .opened) ∧
    (∀ k v, i = .uwrite k v → s.appTurn = .opened) ∧
    (i ≠ .snapshot → i ≠ .commit → t.appTurn = s.appTurn)

/-- R112, R115: `offset` is set by a received offset byte and stepped by a transmitted byte, and by nothing else;
`offsetValid` is never cleared. -/
def Obligations.OffsetPersistsAcrossTransactions : Prop :=
  ∀ i s t, exec i s = .next t →
    (s.offsetValid = true → t.offsetValid = true) ∧
    ((∀ b, i ≠ .srDataAck b) → t.offsetValid = s.offsetValid) ∧
    ((∀ b, i ≠ .srDataAck b) → i ∉ requests → t.offset = s.offset)

/-- R7, R31, R141: no step changes the parameters (a field of `State`: log entry 1), and after `INIT` no step changes the
registration. -/
def Obligations.ParametersAndRegistrationAreFixed : Prop :=
  ∀ s t, step s = .next t →
    t.cfg = s.cfg ∧ (s.initDone = true → t.initDone = true ∧ t.ownAddr = s.ownAddr)

/-- R38 with the model's own forms: every step keeps the invariant. -/
def Obligations.EveryStepKeepsTheInvariant : Prop :=
  ∀ s t : State, s.Inv → step s = .next t → t.Inv

/-- The invariant holds at reset. -/
def Obligations.ResetMeetsTheInvariant : Prop := State.reset.Inv

/-- R40, R166: the values the spec gives for reset. -/
def Obligations.ResetHoldsTheStatedValues : Prop :=
  State.reset.txState = .idle ∧ State.reset.pendingCount = 0 ∧ State.reset.offsetValid = false ∧
  State.reset.appTurn = .noTurn ∧ State.reset.busTouched = [] ∧ State.reset.initDone = false ∧
  State.reset.outTrace = [] ∧ State.reset.faults = [] ∧
  (∀ p, p < State.reset.cfg.size → State.reset.staging.read p = Config.stagingInit p)

/-! ### Whole transactions and turns -/

/-- R59 (property P1): after an `SR_ADDR`, whatever inputs follow short of the next `SR_ADDR`, a transmitted byte is a byte
of `staging` as it was at that `SR_ADDR`. -/
def Obligations.ReadsSeeStagingAsAtTheLastStart : Prop :=
  ∀ (l : List Instr) (s s₀ t u : State) (i : Instr), exec .srAddr s = .next s₀ → .srAddr ∉ l → execAll l s₀ = .next t →
    i ∈ requests → exec i t = .next u → u.faults = [] →
    u.outTrace = t.outTrace ++ [.delay t.cfg.delayUs, .txByte (s.staging.read t.offset), .ackNext]

/-- R130 (property P2): `COMMIT` leaves every byte the application did not change as it is. -/
def Obligations.CommitKeepsUnchangedBytes : Prop :=
  ∀ (s t : State) (p : Nat), s.Inv → exec .commit s = .next t →
    s.userBuffer.read p = s.userBufferSnapshot.read p → t.staging.read p = s.staging.read p

/-- R131 (property P5): a `SNAPSHOT`, any bus events, then `COMMIT`: the commit completes and writes nothing. -/
def Obligations.TurnWithoutWritesCommitsNothing : Prop :=
  ∀ (l : List Instr) (s s₀ t : State), (∀ i ∈ l, i.isBusEvent = true) → exec .snapshot s = .next s₀ →
    execAll l s₀ = .next t → t.faults = [] → exec .commit t = .next { t with appTurn := .closed }

/-- R111: the batch after an offset byte and `m` data bytes, and where the stop puts it. -/
def Obligations.BatchHoldsTheLastPartialGroup : Prop :=
  ∀ (s : State) (o : Byte) (ds : List Byte), s.Inv → Enabled s → s.txState = .awaitingOffset → s.pendingCount = 0 →
    ∃ t, execAll (.srDataAck o :: ds.map .srDataAck) s = .next t ∧ t.faults = [] ∧
      (ds = [] → t.pendingCount = 0) ∧
      (ds ≠ [] → t.pendingCount = (ds.length - 1) % s.cfg.cap + 1 ∧
        (∀ j, j < t.pendingCount →
          ds[s.cfg.cap * ((ds.length - 1) / s.cfg.cap) + j]? = some (t.pendingWrites.read j)) ∧
        s.cfg.cap * ((ds.length - 1) / s.cfg.cap) + t.pendingCount = ds.length) ∧
      (o.toNat + t.pendingCount ≤ s.cfg.size → ∃ u, exec .srStop t = .next u ∧ u.faults = [] ∧
        ∀ j, j < t.pendingCount →
          ds[s.cfg.cap * ((ds.length - 1) / s.cfg.cap) + j]? = some (u.staging.read (o.toNat + j)))

/-- R117 (property P3): a whole master write. -/
def Obligations.MasterWriteLandsAtItsOffset : Prop :=
  ∀ (s : State) (off : Byte) (ds : List Byte), s.Inv → Enabled s → s.pendingCount = 0 → ds.length ≤ s.cfg.cap →
    off.toNat + ds.length ≤ s.cfg.size →
    ∃ t, execAll (mwrite off ds) s = .next t ∧ t.faults = [] ∧
      (∀ j, j < ds.length → ds[j]? = some (t.staging.read (off.toNat + j))) ∧
      (∀ p, p < off.toNat ∨ off.toNat + ds.length ≤ p → t.staging.read p = s.staging.read p) ∧
      t.offset = off.toNat ∧ t.txState = .idle ∧ t.transactionReadBuffer = s.staging

/-- R118 (property P6): a whole master read. -/
def Obligations.MasterReadReturnsConsecutiveBytes : Prop :=
  ∀ (s : State) (k : Nat), 1 ≤ k → Enabled s → s.offsetValid = true → s.offset + k ≤ s.cfg.size →
    execAll (mread k) s = .next { s with
      offset := s.offset + k,
      outTrace := s.outTrace ++ (List.range k).flatMap (fun j =>
        [.delay s.cfg.delayUs, .txByte (s.transactionReadBuffer.read (s.offset + j)), .ackNext]) ++ [.ackNext] }

/-- R114, R175, for one byte written and read: a read joined to the write returns the old byte; after a new offset write it
returns the new one. -/
def Obligations.ReadAfterWriteIsStaleUntilTheNextStart : Prop :=
  ∀ (s : State) (off b : Byte), s.Inv → Enabled s → s.pendingCount = 0 → off.toNat < s.cfg.size →
    ∃ t u l l', execAll (mwrite off [b] ++ [.stAddr]) s = .next t ∧
      t.outTrace = l ++ [.txByte (s.staging.read off.toNat), .ackNext] ∧
      execAll (mwrite off [b] ++ (msetoff off ++ [.stAddr])) s = .next u ∧
      u.outTrace = l' ++ [.txByte b, .ackNext]

/-- R113, R116, for one new byte: a batch cut off by a bus error lands, with the next transaction's byte, at the new offset.
That the batch survives is the spec's own decision (D25), on which a master should not rely (R176). -/
def Obligations.BatchSurvivesABusErrorAndLandsAtTheNewOffset : Prop :=
  ∀ (s : State) (o b : Byte), s.Inv → Enabled s → s.txState = .active → s.pendingCount < s.cfg.cap →
    o.toNat + s.pendingCount + 1 ≤ s.cfg.size →
    ∃ t, execAll [.busError, .srAddr, .srDataAck o, .srDataAck b, .srStop] s = .next t ∧ t.faults = [] ∧
      (∀ j, j < s.pendingCount → t.staging.read (o.toNat + j) = s.pendingWrites.read j) ∧
      t.staging.read (o.toNat + s.pendingCount) = b

/-- R79, R105: in a well-formed bus sequence `F_RX_IDLE` is never raised, whatever the state it starts from. The
grammar admits the two events that R80 rules out, the model's choice (log entry 23). -/
def Obligations.WellFormedSequencesNeverRaiseRxIdle : Prop :=
  ∀ (l l' : List Instr) (s t : State) (b : Byte), s.faults = [] → wellFormedSequence (l ++ l') = true →
    execAll l s = .next t → .rxIdle b ∉ t.faults

/-- R79, R116: in a well-formed bus sequence without bus errors the batch is empty at every `SR_ADDR` that is given a step.
The grammar admits the two events that R80 rules out, the model's choice (log entry 23). -/
def Obligations.BatchIsEmptyAtEveryStartWithoutBusErrors : Prop :=
  ∀ (l l' : List Instr) (s t u : State), wellFormedSequence (l ++ .srAddr :: l') = true → .busError ∉ l →
    s.pendingCount = 0 → execAll l s = .next t → exec .srAddr t = .next u → t.pendingCount = 0
end

