-- ==== Sys2Proof/Laws/Memory.lean ====
section
/-! SUPPORT. Laws of the buffer memory and of position sets: read after write, the canonical form, bounds. -/

namespace Sys2Proof.Machine

@[simp] theorem Memory.read_nil (a : Nat) : Memory.read [] a = Memory.unlisted := rfl

theorem Memory.read_cons (b : Nat) (w : Byte) (m : Memory) (a : Nat) :
    Memory.read ((b, w) :: m) a = if a = b then w else Memory.read m a := rfl

theorem Memory.wf_cons {a : Nat} {v : Byte} {m : Memory} :
    Memory.wf ((a, v) :: m) = true ↔ v ≠ Memory.unlisted ∧ (∀ c ∈ m, a < c.1) ∧ Memory.wf m = true := by
  simp [Memory.wf, and_assoc]

theorem Memory.below_iff {n : Nat} {m : Memory} : m.below n = true ↔ ∀ c ∈ m, c.1 < n := by
  simp [Memory.below]

/-- A position before every listed one reads as unlisted. -/
theorem Memory.read_of_lt {m : Memory} {a : Nat} (h : ∀ c ∈ m, a < c.1) : m.read a = Memory.unlisted := by
  induction m with
  | nil => rfl
  | cons c m ih =>
    obtain ⟨b, w⟩ := c
    have hb : a < b := h (b, w) (by simp)
    rw [Memory.read_cons, if_neg (by omega)]
    exact ih (fun c hc => h c (by simp [hc]))

/-- A position at or beyond the bound reads as unlisted. -/
theorem Memory.read_of_below {n : Nat} {m : Memory} (h : m.below n = true) {a : Nat} (ha : n ≤ a) :
    m.read a = Memory.unlisted := by
  induction m with
  | nil => rfl
  | cons c m ih =>
    obtain ⟨b, w⟩ := c
    rw [Memory.below_iff] at h
    have hb : b < n := h (b, w) (by simp)
    rw [Memory.read_cons, if_neg (by omega)]
    exact ih (Memory.below_iff.2 fun c hc => h c (by simp [hc]))

/-- Every cell after a write is one of the old cells or the cell written. -/
theorem Memory.mem_write {m : Memory} {a : Nat} {v : Byte} {c : Host.Cell} (h : c ∈ m.write a v) :
    c = (a, v) ∨ c ∈ m := by
  induction m with
  | nil =>
    simp only [Memory.write] at h
    split at h <;> simp_all
  | cons d m ih =>
    obtain ⟨b, w⟩ := d
    simp only [Memory.write] at h
    split at h
    · split at h <;> simp_all
    · split at h
      · simp only [List.mem_cons]
        split at h
        · exact .inr (.inr h)
        · rcases List.mem_cons.1 h with h | h
          · exact .inl h
          · exact .inr (.inr h)
      · rcases List.mem_cons.1 h with h | h
        · simp [h]
        · rcases ih h with h | h <;> simp [h]

/-- A write keeps the canonical form. -/
theorem Memory.wf_write {m : Memory} (h : m.wf = true) (a : Nat) (v : Byte) : (m.write a v).wf = true := by
  induction m with
  | nil => simp only [Memory.write]; split <;> simp_all [Memory.wf]
  | cons c m ih =>
    obtain ⟨b, w⟩ := c
    obtain ⟨hw, hlt, hm⟩ := Memory.wf_cons.1 h
    simp only [Memory.write]
    split
    · rename_i hab
      split
      · exact h
      · rename_i hv
        refine Memory.wf_cons.2 ⟨hv, fun c hc => ?_, h⟩
        rcases List.mem_cons.1 hc with rfl | hc
        · exact hab
        · exact hab.trans (hlt c hc)
    · split
      · subst a
        split
        · exact hm
        · rename_i hv; exact Memory.wf_cons.2 ⟨hv, hlt, hm⟩
      · refine Memory.wf_cons.2 ⟨hw, fun c hc => ?_, ih hm⟩
        rcases Memory.mem_write hc with rfl | hc
        · show b < a; omega
        · exact hlt c hc

/-- A write at a position below the bound keeps the bound. -/
theorem Memory.below_write {n : Nat} {m : Memory} (h : m.below n = true) {a : Nat} (ha : a < n) (v : Byte) :
    (m.write a v).below n = true := by
  rw [Memory.below_iff] at h ⊢
  intro c hc
  rcases Memory.mem_write hc with rfl | hc
  · exact ha
  · exact h c hc

theorem Memory.fits_iff {n : Nat} {m : Memory} : m.fits n = true ↔ m.wf = true ∧ m.below n = true := by
  simp [Memory.fits]

theorem Memory.fits_write {n : Nat} {m : Memory} (h : m.fits n = true) {a : Nat} (ha : a < n) (v : Byte) :
    (m.write a v).fits n = true := by
  obtain ⟨h1, h2⟩ := Memory.fits_iff.1 h
  exact Memory.fits_iff.2 ⟨Memory.wf_write h1 a v, Memory.below_write h2 ha v⟩

/-- Read after write: the position written holds the value written, every other position is left alone. -/
theorem Memory.read_write {m : Memory} (h : m.wf = true) (a : Nat) (v : Byte) (p : Nat) :
    (m.write a v).read p = if p = a then v else m.read p := by
  induction m with
  | nil =>
    simp only [Memory.write]
    split <;> rename_i hv
    · subst hv; split <;> simp
    · simp [Memory.read_cons]
  | cons c m ih =>
    obtain ⟨b, w⟩ := c
    obtain ⟨hw, hlt, hm⟩ := Memory.wf_cons.1 h
    simp only [Memory.write]
    split
    · rename_i hab
      split <;> rename_i hv
      · subst hv
        by_cases hp : p = a
        · subst hp
          rw [if_pos rfl, Memory.read_cons, if_neg (by omega)]
          exact Memory.read_of_lt fun c hc => hab.trans (hlt c hc)
        · rw [if_neg hp]
      · rw [Memory.read_cons]
    · split
      · subst a
        split <;> rename_i hv
        · subst hv
          by_cases hp : p = b
          · subst hp; rw [if_pos rfl]; exact Memory.read_of_lt hlt
          · rw [if_neg hp, Memory.read_cons, if_neg hp]
        · by_cases hp : p = b
          · simp [Memory.read_cons, hp]
          · simp [Memory.read_cons, hp]
      · rename_i h1 h2
        rw [Memory.read_cons, Memory.read_cons, ih hm]
        by_cases hp : p = b
        · subst hp; rw [if_pos rfl, if_neg (by omega), if_pos rfl]
        · simp [hp]

/-- Equal reads make equal canonical memories. -/
theorem Memory.ext_read {m m' : Memory} (h : m.wf = true) (h' : m'.wf = true)
    (heq : ∀ p, m.read p = m'.read p) : m = m' := by
  induction m generalizing m' with
  | nil =>
    cases m' with
    | nil => rfl
    | cons c m' =>
      obtain ⟨b, w⟩ := c
      have := heq b
      rw [Memory.read_nil, Memory.read_cons, if_pos rfl] at this
      exact absurd this.symm (Memory.wf_cons.1 h').1
  | cons c m ih =>
    obtain ⟨a, v⟩ := c
    obtain ⟨hv, hlt, hm⟩ := Memory.wf_cons.1 h
    cases m' with
    | nil =>
      have := heq a
      rw [Memory.read_nil, Memory.read_cons, if_pos rfl] at this
      exact absurd this hv
    | cons c' m' =>
      obtain ⟨b, w⟩ := c'
      obtain ⟨hw, hlt', hm'⟩ := Memory.wf_cons.1 h'
      have hab : a = b := by
        rcases Nat.lt_trichotomy a b with hl | he | hg
        · exfalso
          have h1 := heq a
          rw [Memory.read_cons, if_pos rfl, Memory.read_cons, if_neg (by omega),
            Memory.read_of_lt fun c hc => hl.trans (hlt' c hc)] at h1
          exact hv h1
        · exact he
        · exfalso
          have h1 := heq b
          rw [Memory.read_cons, if_neg (by omega), Memory.read_of_lt (fun c hc => hg.trans (hlt c hc)),
            Memory.read_cons, if_pos rfl] at h1
          exact hw h1.symm
      subst hab
      have hvw : v = w := by
        have h1 := heq a
        rwa [Memory.read_cons, if_pos rfl, Memory.read_cons, if_pos rfl] at h1
      subst hvw
      congr 1
      refine ih hm hm' fun p => ?_
      by_cases hp : p = a
      · subst hp; rw [Memory.read_of_lt hlt, Memory.read_of_lt hlt']
      · have h1 := heq p
        rwa [Memory.read_cons, if_neg hp, Memory.read_cons, if_neg hp] at h1

theorem Memory.below_append {n : Nat} {m m' : Memory} :
    Memory.below n (m ++ m') = true ↔ m.below n = true ∧ m'.below n = true := by
  simp [Memory.below]

/-- The bytes of a whole buffer are in canonical form and lie below its size. -/
theorem Memory.fits_ofFn (f : Nat → Byte) (n : Nat) : (Memory.ofFn f n).fits n = true := by
  have hb : ∀ n, (Memory.ofFn f n).below n = true := by
    intro n
    induction n with
    | zero => rfl
    | succ n ih =>
      rw [Memory.ofFn, Memory.below_append]
      refine ⟨Memory.below_iff.2 fun c hc => (Memory.below_iff.1 ih c hc).trans (Nat.lt_succ_self n), ?_⟩
      split <;> simp [Memory.below]
  have happ : ∀ (m : Memory) (n : Nat) (v : Byte), m.wf = true → m.below n = true → v ≠ Memory.unlisted →
      Memory.wf (m ++ [(n, v)]) = true := by
    intro m n v
    induction m with
    | nil => intro _ _ hv; simp [Memory.wf, hv]
    | cons c m ih =>
      obtain ⟨b, w⟩ := c
      intro hm hbelow hv
      obtain ⟨hw, hlt, hm⟩ := Memory.wf_cons.1 hm
      rw [Memory.below_iff] at hbelow
      refine Memory.wf_cons.2 ⟨hw, fun c hc => ?_, ih hm (Memory.below_iff.2 fun c hc => hbelow c (by simp [hc])) hv⟩
      rcases List.mem_append.1 hc with hc | hc
      · exact hlt c hc
      · obtain rfl := List.mem_singleton.1 hc
        exact hbelow (b, w) (by simp)
  refine Memory.fits_iff.2 ⟨?_, hb n⟩
  induction n with
  | zero => rfl
  | succ n ih =>
    rw [Memory.ofFn]
    split
    · simpa using ih
    · rename_i hv; exact happ _ n _ ih (hb n) hv

/-- A whole buffer reads back byte for byte. -/
theorem Memory.read_ofFn (f : Nat → Byte) {n p : Nat} (h : p < n) : (Memory.ofFn f n).read p = f p := by
  have happ : ∀ (m m' : Memory) (p : Nat), Memory.read (m ++ m') p =
      if (∃ c ∈ m, c.1 = p) then m.read p else m'.read p := by
    intro m m' p
    induction m with
    | nil => simp
    | cons c m ih =>
      obtain ⟨b, w⟩ := c
      rw [List.cons_append, Memory.read_cons, Memory.read_cons, ih]
      by_cases hp : p = b
      · subst hp; simp
      · have : ¬ b = p := fun e => hp e.symm
        simp [hp, this]
  have hmem : ∀ (m : Memory) (p : Nat), (¬ ∃ c ∈ m, c.1 = p) → m.read p = Memory.unlisted := by
    intro m p
    induction m with
    | nil => intro _; rfl
    | cons c m ih =>
      obtain ⟨b, w⟩ := c
      intro hn
      rw [Memory.read_cons, if_neg (fun e => hn ⟨(b, w), by simp, e.symm⟩)]
      exact ih fun ⟨c, hc, e⟩ => hn ⟨c, by simp [hc], e⟩
  induction n with
  | zero => omega
  | succ n ih =>
    have hbelow := Memory.below_iff.1 (Memory.fits_iff.1 (Memory.fits_ofFn f n)).2
    rw [Memory.ofFn, happ]
    by_cases hp : p = n
    · subst hp
      rw [if_neg (fun ⟨c, hc, e⟩ => by have := hbelow c hc; omega)]
      split
      · rename_i hv; simp [hv]
      · simp [Memory.read_cons]
    · have hlt : p < n := by omega
      split
      · exact ih hlt
      · rename_i hn
        rw [← ih hlt, hmem _ _ hn]
        split
        · rfl
        · rw [Memory.read_cons, if_neg hp]; rfl

theorem PosSet.wf_cons {p : Nat} {l : PosSet} :
    PosSet.wf (p :: l) = true ↔ (∀ q ∈ l, p < q) ∧ PosSet.wf l = true := by
  simp [PosSet.wf]

/-- Setting one position's bit sets that bit and no other. -/
theorem PosSet.mem_insert {l : PosSet} {p q : Nat} : q ∈ l.insert p ↔ q = p ∨ q ∈ l := by
  induction l with
  | nil => simp [PosSet.insert]
  | cons r l ih =>
    simp only [PosSet.insert]
    split
    · simp
    · split
      · subst p; simp
      · simp only [List.mem_cons, ih]; tauto

theorem PosSet.wf_insert {l : PosSet} (h : l.wf = true) (p : Nat) : (l.insert p).wf = true := by
  induction l with
  | nil => rfl
  | cons r l ih =>
    obtain ⟨hlt, hl⟩ := PosSet.wf_cons.1 h
    simp only [PosSet.insert]
    split
    · rename_i hp
      refine PosSet.wf_cons.2 ⟨fun q hq => ?_, h⟩
      rcases List.mem_cons.1 hq with rfl | hq
      · exact hp
      · exact hp.trans (hlt q hq)
    · split
      · exact h
      · refine PosSet.wf_cons.2 ⟨fun q hq => ?_, ih hl⟩
        rcases PosSet.mem_insert.1 hq with rfl | hq
        · omega
        · exact hlt q hq

theorem PosSet.fits_iff {n : Nat} {l : PosSet} : l.fits n = true ↔ l.wf = true ∧ ∀ p ∈ l, p < n := by
  simp [PosSet.fits]

theorem PosSet.fits_insert {n : Nat} {l : PosSet} (h : l.fits n = true) {p : Nat} (hp : p < n) :
    (l.insert p).fits n = true := by
  obtain ⟨h1, h2⟩ := PosSet.fits_iff.1 h
  refine PosSet.fits_iff.2 ⟨PosSet.wf_insert h1 p, fun q hq => ?_⟩
  rcases PosSet.mem_insert.1 hq with rfl | hq
  · exact hp
  · exact h2 q hq

@[simp] theorem touched_iff {l : PosSet} {p : Nat} : touched l p = true ↔ p ∈ l := by simp [touched]

@[simp] theorem changed_iff {user snap : Memory} {p : Nat} :
    changed user snap p = true ↔ user.read p ≠ snap.read p := by simp [changed]

@[simp] theorem changed_self (m : Memory) (p : Nat) : changed m m p = false := by simp [changed]

end Sys2Proof.Machine
end

