-- ==== Sys2Proof/Laws/State.lean ====
section
/-! SUPPORT. What each named update of the state does to each field. -/

namespace Sys2Proof.Machine

variable (s : State)

@[simp] theorem State.emit_cfg (o : Output) : (s.emit o).cfg = s.cfg := rfl
@[simp] theorem State.emit_txState (o : Output) : (s.emit o).txState = s.txState := rfl
@[simp] theorem State.emit_offset (o : Output) : (s.emit o).offset = s.offset := rfl
@[simp] theorem State.emit_offsetValid (o : Output) : (s.emit o).offsetValid = s.offsetValid := rfl
@[simp] theorem State.emit_pendingWrites (o : Output) : (s.emit o).pendingWrites = s.pendingWrites := rfl
@[simp] theorem State.emit_pendingCount (o : Output) : (s.emit o).pendingCount = s.pendingCount := rfl
@[simp] theorem State.emit_staging (o : Output) : (s.emit o).staging = s.staging := rfl
@[simp] theorem State.emit_transactionReadBuffer (o : Output) : (s.emit o).transactionReadBuffer = s.transactionReadBuffer := rfl
@[simp] theorem State.emit_userBuffer (o : Output) : (s.emit o).userBuffer = s.userBuffer := rfl
@[simp] theorem State.emit_userBufferSnapshot (o : Output) : (s.emit o).userBufferSnapshot = s.userBufferSnapshot := rfl
@[simp] theorem State.emit_appTurn (o : Output) : (s.emit o).appTurn = s.appTurn := rfl
@[simp] theorem State.emit_busTouched (o : Output) : (s.emit o).busTouched = s.busTouched := rfl
@[simp] theorem State.emit_initDone (o : Output) : (s.emit o).initDone = s.initDone := rfl
@[simp] theorem State.emit_ownAddr (o : Output) : (s.emit o).ownAddr = s.ownAddr := rfl
@[simp] theorem State.emit_outTrace (o : Output) : (s.emit o).outTrace = s.outTrace ++ [o] := rfl
@[simp] theorem State.emit_faults (o : Output) : (s.emit o).faults = s.faults := rfl
@[simp] theorem State.emit_appResults (o : Output) : (s.emit o).appResults = s.appResults := rfl
@[simp] theorem State.emit_busPort (o : Output) : (s.emit o).busPort = s.busPort := rfl
@[simp] theorem State.emit_callPort (o : Output) : (s.emit o).callPort = s.callPort := rfl
@[simp] theorem State.emit_choices (o : Output) : (s.emit o).choices = s.choices := rfl

@[simp] theorem State.addFault_cfg (r : FaultRecord) : (s.addFault r).cfg = s.cfg := rfl
@[simp] theorem State.addFault_txState (r : FaultRecord) : (s.addFault r).txState = s.txState := rfl
@[simp] theorem State.addFault_offset (r : FaultRecord) : (s.addFault r).offset = s.offset := rfl
@[simp] theorem State.addFault_offsetValid (r : FaultRecord) : (s.addFault r).offsetValid = s.offsetValid := rfl
@[simp] theorem State.addFault_pendingWrites (r : FaultRecord) : (s.addFault r).pendingWrites = s.pendingWrites := rfl
@[simp] theorem State.addFault_pendingCount (r : FaultRecord) : (s.addFault r).pendingCount = s.pendingCount := rfl
@[simp] theorem State.addFault_staging (r : FaultRecord) : (s.addFault r).staging = s.staging := rfl
@[simp] theorem State.addFault_transactionReadBuffer (r : FaultRecord) : (s.addFault r).transactionReadBuffer = s.transactionReadBuffer := rfl
@[simp] theorem State.addFault_userBuffer (r : FaultRecord) : (s.addFault r).userBuffer = s.userBuffer := rfl
@[simp] theorem State.addFault_userBufferSnapshot (r : FaultRecord) : (s.addFault r).userBufferSnapshot = s.userBufferSnapshot := rfl
@[simp] theorem State.addFault_appTurn (r : FaultRecord) : (s.addFault r).appTurn = s.appTurn := rfl
@[simp] theorem State.addFault_busTouched (r : FaultRecord) : (s.addFault r).busTouched = s.busTouched := rfl
@[simp] theorem State.addFault_initDone (r : FaultRecord) : (s.addFault r).initDone = s.initDone := rfl
@[simp] theorem State.addFault_ownAddr (r : FaultRecord) : (s.addFault r).ownAddr = s.ownAddr := rfl
@[simp] theorem State.addFault_outTrace (r : FaultRecord) : (s.addFault r).outTrace = s.outTrace := rfl
@[simp] theorem State.addFault_faults (r : FaultRecord) : (s.addFault r).faults = s.faults ++ [r] := rfl
@[simp] theorem State.addFault_appResults (r : FaultRecord) : (s.addFault r).appResults = s.appResults := rfl
@[simp] theorem State.addFault_busPort (r : FaultRecord) : (s.addFault r).busPort = s.busPort := rfl
@[simp] theorem State.addFault_callPort (r : FaultRecord) : (s.addFault r).callPort = s.callPort := rfl
@[simp] theorem State.addFault_choices (r : FaultRecord) : (s.addFault r).choices = s.choices := rfl

@[simp] theorem State.beginTransaction_cfg : s.beginTransaction.cfg = s.cfg := rfl
@[simp] theorem State.beginTransaction_txState : s.beginTransaction.txState = .awaitingOffset := rfl
@[simp] theorem State.beginTransaction_offset : s.beginTransaction.offset = s.offset := rfl
@[simp] theorem State.beginTransaction_offsetValid : s.beginTransaction.offsetValid = s.offsetValid := rfl
@[simp] theorem State.beginTransaction_pendingWrites : s.beginTransaction.pendingWrites = s.pendingWrites := rfl
@[simp] theorem State.beginTransaction_pendingCount : s.beginTransaction.pendingCount = s.pendingCount := rfl
@[simp] theorem State.beginTransaction_staging : s.beginTransaction.staging = s.staging := rfl
@[simp] theorem State.beginTransaction_transactionReadBuffer : s.beginTransaction.transactionReadBuffer = s.staging := rfl
@[simp] theorem State.beginTransaction_userBuffer : s.beginTransaction.userBuffer = s.userBuffer := rfl
@[simp] theorem State.beginTransaction_userBufferSnapshot : s.beginTransaction.userBufferSnapshot = s.userBufferSnapshot := rfl
@[simp] theorem State.beginTransaction_appTurn : s.beginTransaction.appTurn = s.appTurn := rfl
@[simp] theorem State.beginTransaction_busTouched : s.beginTransaction.busTouched = s.busTouched := rfl
@[simp] theorem State.beginTransaction_initDone : s.beginTransaction.initDone = s.initDone := rfl
@[simp] theorem State.beginTransaction_ownAddr : s.beginTransaction.ownAddr = s.ownAddr := rfl
@[simp] theorem State.beginTransaction_outTrace : s.beginTransaction.outTrace = s.outTrace := rfl
@[simp] theorem State.beginTransaction_faults : s.beginTransaction.faults = s.faults := rfl
@[simp] theorem State.beginTransaction_appResults : s.beginTransaction.appResults = s.appResults := rfl
@[simp] theorem State.beginTransaction_busPort : s.beginTransaction.busPort = s.busPort := rfl
@[simp] theorem State.beginTransaction_callPort : s.beginTransaction.callPort = s.callPort := rfl
@[simp] theorem State.beginTransaction_choices : s.beginTransaction.choices = s.choices := rfl

@[simp] theorem State.takeOffset_cfg (o : Nat) : (s.takeOffset o).cfg = s.cfg := rfl
@[simp] theorem State.takeOffset_txState (o : Nat) : (s.takeOffset o).txState = .active := rfl
@[simp] theorem State.takeOffset_offset (o : Nat) : (s.takeOffset o).offset = o := rfl
@[simp] theorem State.takeOffset_offsetValid (o : Nat) : (s.takeOffset o).offsetValid = true := rfl
@[simp] theorem State.takeOffset_pendingWrites (o : Nat) : (s.takeOffset o).pendingWrites = s.pendingWrites := rfl
@[simp] theorem State.takeOffset_pendingCount (o : Nat) : (s.takeOffset o).pendingCount = s.pendingCount := rfl
@[simp] theorem State.takeOffset_staging (o : Nat) : (s.takeOffset o).staging = s.staging := rfl
@[simp] theorem State.takeOffset_transactionReadBuffer (o : Nat) : (s.takeOffset o).transactionReadBuffer = s.transactionReadBuffer := rfl
@[simp] theorem State.takeOffset_userBuffer (o : Nat) : (s.takeOffset o).userBuffer = s.userBuffer := rfl
@[simp] theorem State.takeOffset_userBufferSnapshot (o : Nat) : (s.takeOffset o).userBufferSnapshot = s.userBufferSnapshot := rfl
@[simp] theorem State.takeOffset_appTurn (o : Nat) : (s.takeOffset o).appTurn = s.appTurn := rfl
@[simp] theorem State.takeOffset_busTouched (o : Nat) : (s.takeOffset o).busTouched = s.busTouched := rfl
@[simp] theorem State.takeOffset_initDone (o : Nat) : (s.takeOffset o).initDone = s.initDone := rfl
@[simp] theorem State.takeOffset_ownAddr (o : Nat) : (s.takeOffset o).ownAddr = s.ownAddr := rfl
@[simp] theorem State.takeOffset_outTrace (o : Nat) : (s.takeOffset o).outTrace = s.outTrace := rfl
@[simp] theorem State.takeOffset_faults (o : Nat) : (s.takeOffset o).faults = s.faults := rfl
@[simp] theorem State.takeOffset_appResults (o : Nat) : (s.takeOffset o).appResults = s.appResults := rfl
@[simp] theorem State.takeOffset_busPort (o : Nat) : (s.takeOffset o).busPort = s.busPort := rfl
@[simp] theorem State.takeOffset_callPort (o : Nat) : (s.takeOffset o).callPort = s.callPort := rfl
@[simp] theorem State.takeOffset_choices (o : Nat) : (s.takeOffset o).choices = s.choices := rfl

@[simp] theorem State.appendAt_cfg (n : Nat) (b : Byte) : (s.appendAt n b).cfg = s.cfg := rfl
@[simp] theorem State.appendAt_txState (n : Nat) (b : Byte) : (s.appendAt n b).txState = s.txState := rfl
@[simp] theorem State.appendAt_offset (n : Nat) (b : Byte) : (s.appendAt n b).offset = s.offset := rfl
@[simp] theorem State.appendAt_offsetValid (n : Nat) (b : Byte) : (s.appendAt n b).offsetValid = s.offsetValid := rfl
@[simp] theorem State.appendAt_pendingWrites (n : Nat) (b : Byte) : (s.appendAt n b).pendingWrites = s.pendingWrites.write n b := rfl
@[simp] theorem State.appendAt_pendingCount (n : Nat) (b : Byte) : (s.appendAt n b).pendingCount = n + 1 := rfl
@[simp] theorem State.appendAt_staging (n : Nat) (b : Byte) : (s.appendAt n b).staging = s.staging := rfl
@[simp] theorem State.appendAt_transactionReadBuffer (n : Nat) (b : Byte) : (s.appendAt n b).transactionReadBuffer = s.transactionReadBuffer := rfl
@[simp] theorem State.appendAt_userBuffer (n : Nat) (b : Byte) : (s.appendAt n b).userBuffer = s.userBuffer := rfl
@[simp] theorem State.appendAt_userBufferSnapshot (n : Nat) (b : Byte) : (s.appendAt n b).userBufferSnapshot = s.userBufferSnapshot := rfl
@[simp] theorem State.appendAt_appTurn (n : Nat) (b : Byte) : (s.appendAt n b).appTurn = s.appTurn := rfl
@[simp] theorem State.appendAt_busTouched (n : Nat) (b : Byte) : (s.appendAt n b).busTouched = s.busTouched := rfl
@[simp] theorem State.appendAt_initDone (n : Nat) (b : Byte) : (s.appendAt n b).initDone = s.initDone := rfl
@[simp] theorem State.appendAt_ownAddr (n : Nat) (b : Byte) : (s.appendAt n b).ownAddr = s.ownAddr := rfl
@[simp] theorem State.appendAt_outTrace (n : Nat) (b : Byte) : (s.appendAt n b).outTrace = s.outTrace := rfl
@[simp] theorem State.appendAt_faults (n : Nat) (b : Byte) : (s.appendAt n b).faults = s.faults := rfl
@[simp] theorem State.appendAt_appResults (n : Nat) (b : Byte) : (s.appendAt n b).appResults = s.appResults := rfl
@[simp] theorem State.appendAt_busPort (n : Nat) (b : Byte) : (s.appendAt n b).busPort = s.busPort := rfl
@[simp] theorem State.appendAt_callPort (n : Nat) (b : Byte) : (s.appendAt n b).callPort = s.callPort := rfl
@[simp] theorem State.appendAt_choices (n : Nat) (b : Byte) : (s.appendAt n b).choices = s.choices := rfl

@[simp] theorem State.advanceOffset_cfg : s.advanceOffset.cfg = s.cfg := rfl
@[simp] theorem State.advanceOffset_txState : s.advanceOffset.txState = s.txState := rfl
@[simp] theorem State.advanceOffset_offset : s.advanceOffset.offset = s.offset + 1 := rfl
@[simp] theorem State.advanceOffset_offsetValid : s.advanceOffset.offsetValid = s.offsetValid := rfl
@[simp] theorem State.advanceOffset_pendingWrites : s.advanceOffset.pendingWrites = s.pendingWrites := rfl
@[simp] theorem State.advanceOffset_pendingCount : s.advanceOffset.pendingCount = s.pendingCount := rfl
@[simp] theorem State.advanceOffset_staging : s.advanceOffset.staging = s.staging := rfl
@[simp] theorem State.advanceOffset_transactionReadBuffer : s.advanceOffset.transactionReadBuffer = s.transactionReadBuffer := rfl
@[simp] theorem State.advanceOffset_userBuffer : s.advanceOffset.userBuffer = s.userBuffer := rfl
@[simp] theorem State.advanceOffset_userBufferSnapshot : s.advanceOffset.userBufferSnapshot = s.userBufferSnapshot := rfl
@[simp] theorem State.advanceOffset_appTurn : s.advanceOffset.appTurn = s.appTurn := rfl
@[simp] theorem State.advanceOffset_busTouched : s.advanceOffset.busTouched = s.busTouched := rfl
@[simp] theorem State.advanceOffset_initDone : s.advanceOffset.initDone = s.initDone := rfl
@[simp] theorem State.advanceOffset_ownAddr : s.advanceOffset.ownAddr = s.ownAddr := rfl
@[simp] theorem State.advanceOffset_outTrace : s.advanceOffset.outTrace = s.outTrace := rfl
@[simp] theorem State.advanceOffset_faults : s.advanceOffset.faults = s.faults := rfl
@[simp] theorem State.advanceOffset_appResults : s.advanceOffset.appResults = s.appResults := rfl
@[simp] theorem State.advanceOffset_busPort : s.advanceOffset.busPort = s.busPort := rfl
@[simp] theorem State.advanceOffset_callPort : s.advanceOffset.callPort = s.callPort := rfl
@[simp] theorem State.advanceOffset_choices : s.advanceOffset.choices = s.choices := rfl

@[simp] theorem State.landBatch_cfg (m : Memory) (l : PosSet) : (s.landBatch m l).cfg = s.cfg := rfl
@[simp] theorem State.landBatch_txState (m : Memory) (l : PosSet) : (s.landBatch m l).txState = s.txState := rfl
@[simp] theorem State.landBatch_offset (m : Memory) (l : PosSet) : (s.landBatch m l).offset = s.offset := rfl
@[simp] theorem State.landBatch_offsetValid (m : Memory) (l : PosSet) : (s.landBatch m l).offsetValid = s.offsetValid := rfl
@[simp] theorem State.landBatch_pendingWrites (m : Memory) (l : PosSet) : (s.landBatch m l).pendingWrites = s.pendingWrites := rfl
@[simp] theorem State.landBatch_pendingCount (m : Memory) (l : PosSet) : (s.landBatch m l).pendingCount = 0 := rfl
@[simp] theorem State.landBatch_staging (m : Memory) (l : PosSet) : (s.landBatch m l).staging = m := rfl
@[simp] theorem State.landBatch_transactionReadBuffer (m : Memory) (l : PosSet) : (s.landBatch m l).transactionReadBuffer = s.transactionReadBuffer := rfl
@[simp] theorem State.landBatch_userBuffer (m : Memory) (l : PosSet) : (s.landBatch m l).userBuffer = s.userBuffer := rfl
@[simp] theorem State.landBatch_userBufferSnapshot (m : Memory) (l : PosSet) : (s.landBatch m l).userBufferSnapshot = s.userBufferSnapshot := rfl
@[simp] theorem State.landBatch_appTurn (m : Memory) (l : PosSet) : (s.landBatch m l).appTurn = s.appTurn := rfl
@[simp] theorem State.landBatch_busTouched (m : Memory) (l : PosSet) : (s.landBatch m l).busTouched = l := rfl
@[simp] theorem State.landBatch_initDone (m : Memory) (l : PosSet) : (s.landBatch m l).initDone = s.initDone := rfl
@[simp] theorem State.landBatch_ownAddr (m : Memory) (l : PosSet) : (s.landBatch m l).ownAddr = s.ownAddr := rfl
@[simp] theorem State.landBatch_outTrace (m : Memory) (l : PosSet) : (s.landBatch m l).outTrace = s.outTrace := rfl
@[simp] theorem State.landBatch_faults (m : Memory) (l : PosSet) : (s.landBatch m l).faults = s.faults := rfl
@[simp] theorem State.landBatch_appResults (m : Memory) (l : PosSet) : (s.landBatch m l).appResults = s.appResults := rfl
@[simp] theorem State.landBatch_busPort (m : Memory) (l : PosSet) : (s.landBatch m l).busPort = s.busPort := rfl
@[simp] theorem State.landBatch_callPort (m : Memory) (l : PosSet) : (s.landBatch m l).callPort = s.callPort := rfl
@[simp] theorem State.landBatch_choices (m : Memory) (l : PosSet) : (s.landBatch m l).choices = s.choices := rfl

@[simp] theorem State.goIdle_cfg : s.goIdle.cfg = s.cfg := rfl
@[simp] theorem State.goIdle_txState : s.goIdle.txState = .idle := rfl
@[simp] theorem State.goIdle_offset : s.goIdle.offset = s.offset := rfl
@[simp] theorem State.goIdle_offsetValid : s.goIdle.offsetValid = s.offsetValid := rfl
@[simp] theorem State.goIdle_pendingWrites : s.goIdle.pendingWrites = s.pendingWrites := rfl
@[simp] theorem State.goIdle_pendingCount : s.goIdle.pendingCount = s.pendingCount := rfl
@[simp] theorem State.goIdle_staging : s.goIdle.staging = s.staging := rfl
@[simp] theorem State.goIdle_transactionReadBuffer : s.goIdle.transactionReadBuffer = s.transactionReadBuffer := rfl
@[simp] theorem State.goIdle_userBuffer : s.goIdle.userBuffer = s.userBuffer := rfl
@[simp] theorem State.goIdle_userBufferSnapshot : s.goIdle.userBufferSnapshot = s.userBufferSnapshot := rfl
@[simp] theorem State.goIdle_appTurn : s.goIdle.appTurn = s.appTurn := rfl
@[simp] theorem State.goIdle_busTouched : s.goIdle.busTouched = s.busTouched := rfl
@[simp] theorem State.goIdle_initDone : s.goIdle.initDone = s.initDone := rfl
@[simp] theorem State.goIdle_ownAddr : s.goIdle.ownAddr = s.ownAddr := rfl
@[simp] theorem State.goIdle_outTrace : s.goIdle.outTrace = s.outTrace := rfl
@[simp] theorem State.goIdle_faults : s.goIdle.faults = s.faults := rfl
@[simp] theorem State.goIdle_appResults : s.goIdle.appResults = s.appResults := rfl
@[simp] theorem State.goIdle_busPort : s.goIdle.busPort = s.busPort := rfl
@[simp] theorem State.goIdle_callPort : s.goIdle.callPort = s.callPort := rfl
@[simp] theorem State.goIdle_choices : s.goIdle.choices = s.choices := rfl

@[simp] theorem State.openTurn_cfg : s.openTurn.cfg = s.cfg := rfl
@[simp] theorem State.openTurn_txState : s.openTurn.txState = s.txState := rfl
@[simp] theorem State.openTurn_offset : s.openTurn.offset = s.offset := rfl
@[simp] theorem State.openTurn_offsetValid : s.openTurn.offsetValid = s.offsetValid := rfl
@[simp] theorem State.openTurn_pendingWrites : s.openTurn.pendingWrites = s.pendingWrites := rfl
@[simp] theorem State.openTurn_pendingCount : s.openTurn.pendingCount = s.pendingCount := rfl
@[simp] theorem State.openTurn_staging : s.openTurn.staging = s.staging := rfl
@[simp] theorem State.openTurn_transactionReadBuffer : s.openTurn.transactionReadBuffer = s.transactionReadBuffer := rfl
@[simp] theorem State.openTurn_userBuffer : s.openTurn.userBuffer = s.staging := rfl
@[simp] theorem State.openTurn_userBufferSnapshot : s.openTurn.userBufferSnapshot = s.staging := rfl
@[simp] theorem State.openTurn_appTurn : s.openTurn.appTurn = .opened := rfl
@[simp] theorem State.openTurn_busTouched : s.openTurn.busTouched = [] := rfl
@[simp] theorem State.openTurn_initDone : s.openTurn.initDone = s.initDone := rfl
@[simp] theorem State.openTurn_ownAddr : s.openTurn.ownAddr = s.ownAddr := rfl
@[simp] theorem State.openTurn_outTrace : s.openTurn.outTrace = s.outTrace := rfl
@[simp] theorem State.openTurn_faults : s.openTurn.faults = s.faults := rfl
@[simp] theorem State.openTurn_appResults : s.openTurn.appResults = s.appResults := rfl
@[simp] theorem State.openTurn_busPort : s.openTurn.busPort = s.busPort := rfl
@[simp] theorem State.openTurn_callPort : s.openTurn.callPort = s.callPort := rfl
@[simp] theorem State.openTurn_choices : s.openTurn.choices = s.choices := rfl

@[simp] theorem State.closeTurn_cfg (m : Memory) : (s.closeTurn m).cfg = s.cfg := rfl
@[simp] theorem State.closeTurn_txState (m : Memory) : (s.closeTurn m).txState = s.txState := rfl
@[simp] theorem State.closeTurn_offset (m : Memory) : (s.closeTurn m).offset = s.offset := rfl
@[simp] theorem State.closeTurn_offsetValid (m : Memory) : (s.closeTurn m).offsetValid = s.offsetValid := rfl
@[simp] theorem State.closeTurn_pendingWrites (m : Memory) : (s.closeTurn m).pendingWrites = s.pendingWrites := rfl
@[simp] theorem State.closeTurn_pendingCount (m : Memory) : (s.closeTurn m).pendingCount = s.pendingCount := rfl
@[simp] theorem State.closeTurn_staging (m : Memory) : (s.closeTurn m).staging = m := rfl
@[simp] theorem State.closeTurn_transactionReadBuffer (m : Memory) : (s.closeTurn m).transactionReadBuffer = s.transactionReadBuffer := rfl
@[simp] theorem State.closeTurn_userBuffer (m : Memory) : (s.closeTurn m).userBuffer = s.userBuffer := rfl
@[simp] theorem State.closeTurn_userBufferSnapshot (m : Memory) : (s.closeTurn m).userBufferSnapshot = s.userBufferSnapshot := rfl
@[simp] theorem State.closeTurn_appTurn (m : Memory) : (s.closeTurn m).appTurn = .closed := rfl
@[simp] theorem State.closeTurn_busTouched (m : Memory) : (s.closeTurn m).busTouched = s.busTouched := rfl
@[simp] theorem State.closeTurn_initDone (m : Memory) : (s.closeTurn m).initDone = s.initDone := rfl
@[simp] theorem State.closeTurn_ownAddr (m : Memory) : (s.closeTurn m).ownAddr = s.ownAddr := rfl
@[simp] theorem State.closeTurn_outTrace (m : Memory) : (s.closeTurn m).outTrace = s.outTrace := rfl
@[simp] theorem State.closeTurn_faults (m : Memory) : (s.closeTurn m).faults = s.faults := rfl
@[simp] theorem State.closeTurn_appResults (m : Memory) : (s.closeTurn m).appResults = s.appResults := rfl
@[simp] theorem State.closeTurn_busPort (m : Memory) : (s.closeTurn m).busPort = s.busPort := rfl
@[simp] theorem State.closeTurn_callPort (m : Memory) : (s.closeTurn m).callPort = s.callPort := rfl
@[simp] theorem State.closeTurn_choices (m : Memory) : (s.closeTurn m).choices = s.choices := rfl

@[simp] theorem State.writeUser_cfg (i : Nat) (v : Byte) : (s.writeUser i v).cfg = s.cfg := rfl
@[simp] theorem State.writeUser_txState (i : Nat) (v : Byte) : (s.writeUser i v).txState = s.txState := rfl
@[simp] theorem State.writeUser_offset (i : Nat) (v : Byte) : (s.writeUser i v).offset = s.offset := rfl
@[simp] theorem State.writeUser_offsetValid (i : Nat) (v : Byte) : (s.writeUser i v).offsetValid = s.offsetValid := rfl
@[simp] theorem State.writeUser_pendingWrites (i : Nat) (v : Byte) : (s.writeUser i v).pendingWrites = s.pendingWrites := rfl
@[simp] theorem State.writeUser_pendingCount (i : Nat) (v : Byte) : (s.writeUser i v).pendingCount = s.pendingCount := rfl
@[simp] theorem State.writeUser_staging (i : Nat) (v : Byte) : (s.writeUser i v).staging = s.staging := rfl
@[simp] theorem State.writeUser_transactionReadBuffer (i : Nat) (v : Byte) : (s.writeUser i v).transactionReadBuffer = s.transactionReadBuffer := rfl
@[simp] theorem State.writeUser_userBuffer (i : Nat) (v : Byte) : (s.writeUser i v).userBuffer = s.userBuffer.write i v := rfl
@[simp] theorem State.writeUser_userBufferSnapshot (i : Nat) (v : Byte) : (s.writeUser i v).userBufferSnapshot = s.userBufferSnapshot := rfl
@[simp] theorem State.writeUser_appTurn (i : Nat) (v : Byte) : (s.writeUser i v).appTurn = s.appTurn := rfl
@[simp] theorem State.writeUser_busTouched (i : Nat) (v : Byte) : (s.writeUser i v).busTouched = s.busTouched := rfl
@[simp] theorem State.writeUser_initDone (i : Nat) (v : Byte) : (s.writeUser i v).initDone = s.initDone := rfl
@[simp] theorem State.writeUser_ownAddr (i : Nat) (v : Byte) : (s.writeUser i v).ownAddr = s.ownAddr := rfl
@[simp] theorem State.writeUser_outTrace (i : Nat) (v : Byte) : (s.writeUser i v).outTrace = s.outTrace := rfl
@[simp] theorem State.writeUser_faults (i : Nat) (v : Byte) : (s.writeUser i v).faults = s.faults := rfl
@[simp] theorem State.writeUser_appResults (i : Nat) (v : Byte) : (s.writeUser i v).appResults = s.appResults := rfl
@[simp] theorem State.writeUser_busPort (i : Nat) (v : Byte) : (s.writeUser i v).busPort = s.busPort := rfl
@[simp] theorem State.writeUser_callPort (i : Nat) (v : Byte) : (s.writeUser i v).callPort = s.callPort := rfl
@[simp] theorem State.writeUser_choices (i : Nat) (v : Byte) : (s.writeUser i v).choices = s.choices := rfl

@[simp] theorem State.giveResult_cfg (b : Byte) : (s.giveResult b).cfg = s.cfg := rfl
@[simp] theorem State.giveResult_txState (b : Byte) : (s.giveResult b).txState = s.txState := rfl
@[simp] theorem State.giveResult_offset (b : Byte) : (s.giveResult b).offset = s.offset := rfl
@[simp] theorem State.giveResult_offsetValid (b : Byte) : (s.giveResult b).offsetValid = s.offsetValid := rfl
@[simp] theorem State.giveResult_pendingWrites (b : Byte) : (s.giveResult b).pendingWrites = s.pendingWrites := rfl
@[simp] theorem State.giveResult_pendingCount (b : Byte) : (s.giveResult b).pendingCount = s.pendingCount := rfl
@[simp] theorem State.giveResult_staging (b : Byte) : (s.giveResult b).staging = s.staging := rfl
@[simp] theorem State.giveResult_transactionReadBuffer (b : Byte) : (s.giveResult b).transactionReadBuffer = s.transactionReadBuffer := rfl
@[simp] theorem State.giveResult_userBuffer (b : Byte) : (s.giveResult b).userBuffer = s.userBuffer := rfl
@[simp] theorem State.giveResult_userBufferSnapshot (b : Byte) : (s.giveResult b).userBufferSnapshot = s.userBufferSnapshot := rfl
@[simp] theorem State.giveResult_appTurn (b : Byte) : (s.giveResult b).appTurn = s.appTurn := rfl
@[simp] theorem State.giveResult_busTouched (b : Byte) : (s.giveResult b).busTouched = s.busTouched := rfl
@[simp] theorem State.giveResult_initDone (b : Byte) : (s.giveResult b).initDone = s.initDone := rfl
@[simp] theorem State.giveResult_ownAddr (b : Byte) : (s.giveResult b).ownAddr = s.ownAddr := rfl
@[simp] theorem State.giveResult_outTrace (b : Byte) : (s.giveResult b).outTrace = s.outTrace := rfl
@[simp] theorem State.giveResult_faults (b : Byte) : (s.giveResult b).faults = s.faults := rfl
@[simp] theorem State.giveResult_appResults (b : Byte) : (s.giveResult b).appResults = s.appResults ++ [b] := rfl
@[simp] theorem State.giveResult_busPort (b : Byte) : (s.giveResult b).busPort = s.busPort := rfl
@[simp] theorem State.giveResult_callPort (b : Byte) : (s.giveResult b).callPort = s.callPort := rfl
@[simp] theorem State.giveResult_choices (b : Byte) : (s.giveResult b).choices = s.choices := rfl

@[simp] theorem State.register_cfg (addr : Addr7) : (s.register addr).cfg = s.cfg := rfl
@[simp] theorem State.register_txState (addr : Addr7) : (s.register addr).txState = s.txState := rfl
@[simp] theorem State.register_offset (addr : Addr7) : (s.register addr).offset = s.offset := rfl
@[simp] theorem State.register_offsetValid (addr : Addr7) : (s.register addr).offsetValid = s.offsetValid := rfl
@[simp] theorem State.register_pendingWrites (addr : Addr7) : (s.register addr).pendingWrites = s.pendingWrites := rfl
@[simp] theorem State.register_pendingCount (addr : Addr7) : (s.register addr).pendingCount = s.pendingCount := rfl
@[simp] theorem State.register_staging (addr : Addr7) : (s.register addr).staging = s.staging := rfl
@[simp] theorem State.register_transactionReadBuffer (addr : Addr7) : (s.register addr).transactionReadBuffer = s.transactionReadBuffer := rfl
@[simp] theorem State.register_userBuffer (addr : Addr7) : (s.register addr).userBuffer = s.userBuffer := rfl
@[simp] theorem State.register_userBufferSnapshot (addr : Addr7) : (s.register addr).userBufferSnapshot = s.userBufferSnapshot := rfl
@[simp] theorem State.register_appTurn (addr : Addr7) : (s.register addr).appTurn = s.appTurn := rfl
@[simp] theorem State.register_busTouched (addr : Addr7) : (s.register addr).busTouched = s.busTouched := rfl
@[simp] theorem State.register_initDone (addr : Addr7) : (s.register addr).initDone = true := rfl
@[simp] theorem State.register_ownAddr (addr : Addr7) : (s.register addr).ownAddr = addr := rfl
@[simp] theorem State.register_outTrace (addr : Addr7) : (s.register addr).outTrace = s.outTrace := rfl
@[simp] theorem State.register_faults (addr : Addr7) : (s.register addr).faults = s.faults := rfl
@[simp] theorem State.register_appResults (addr : Addr7) : (s.register addr).appResults = s.appResults := rfl
@[simp] theorem State.register_busPort (addr : Addr7) : (s.register addr).busPort = s.busPort := rfl
@[simp] theorem State.register_callPort (addr : Addr7) : (s.register addr).callPort = s.callPort := rfl
@[simp] theorem State.register_choices (addr : Addr7) : (s.register addr).choices = s.choices := rfl

@[simp] theorem State.takeBus_cfg (xs : List BusInput) : (s.takeBus xs).cfg = s.cfg := rfl
@[simp] theorem State.takeBus_txState (xs : List BusInput) : (s.takeBus xs).txState = s.txState := rfl
@[simp] theorem State.takeBus_offset (xs : List BusInput) : (s.takeBus xs).offset = s.offset := rfl
@[simp] theorem State.takeBus_offsetValid (xs : List BusInput) : (s.takeBus xs).offsetValid = s.offsetValid := rfl
@[simp] theorem State.takeBus_pendingWrites (xs : List BusInput) : (s.takeBus xs).pendingWrites = s.pendingWrites := rfl
@[simp] theorem State.takeBus_pendingCount (xs : List BusInput) : (s.takeBus xs).pendingCount = s.pendingCount := rfl
@[simp] theorem State.takeBus_staging (xs : List BusInput) : (s.takeBus xs).staging = s.staging := rfl
@[simp] theorem State.takeBus_transactionReadBuffer (xs : List BusInput) : (s.takeBus xs).transactionReadBuffer = s.transactionReadBuffer := rfl
@[simp] theorem State.takeBus_userBuffer (xs : List BusInput) : (s.takeBus xs).userBuffer = s.userBuffer := rfl
@[simp] theorem State.takeBus_userBufferSnapshot (xs : List BusInput) : (s.takeBus xs).userBufferSnapshot = s.userBufferSnapshot := rfl
@[simp] theorem State.takeBus_appTurn (xs : List BusInput) : (s.takeBus xs).appTurn = s.appTurn := rfl
@[simp] theorem State.takeBus_busTouched (xs : List BusInput) : (s.takeBus xs).busTouched = s.busTouched := rfl
@[simp] theorem State.takeBus_initDone (xs : List BusInput) : (s.takeBus xs).initDone = s.initDone := rfl
@[simp] theorem State.takeBus_ownAddr (xs : List BusInput) : (s.takeBus xs).ownAddr = s.ownAddr := rfl
@[simp] theorem State.takeBus_outTrace (xs : List BusInput) : (s.takeBus xs).outTrace = s.outTrace := rfl
@[simp] theorem State.takeBus_faults (xs : List BusInput) : (s.takeBus xs).faults = s.faults := rfl
@[simp] theorem State.takeBus_appResults (xs : List BusInput) : (s.takeBus xs).appResults = s.appResults := rfl
@[simp] theorem State.takeBus_busPort (xs : List BusInput) : (s.takeBus xs).busPort = xs := rfl
@[simp] theorem State.takeBus_callPort (xs : List BusInput) : (s.takeBus xs).callPort = s.callPort := rfl
@[simp] theorem State.takeBus_choices (xs : List BusInput) : (s.takeBus xs).choices = s.choices + 1 := rfl

@[simp] theorem State.takeCall_cfg (ws : List CallWord) : (s.takeCall ws).cfg = s.cfg := rfl
@[simp] theorem State.takeCall_txState (ws : List CallWord) : (s.takeCall ws).txState = s.txState := rfl
@[simp] theorem State.takeCall_offset (ws : List CallWord) : (s.takeCall ws).offset = s.offset := rfl
@[simp] theorem State.takeCall_offsetValid (ws : List CallWord) : (s.takeCall ws).offsetValid = s.offsetValid := rfl
@[simp] theorem State.takeCall_pendingWrites (ws : List CallWord) : (s.takeCall ws).pendingWrites = s.pendingWrites := rfl
@[simp] theorem State.takeCall_pendingCount (ws : List CallWord) : (s.takeCall ws).pendingCount = s.pendingCount := rfl
@[simp] theorem State.takeCall_staging (ws : List CallWord) : (s.takeCall ws).staging = s.staging := rfl
@[simp] theorem State.takeCall_transactionReadBuffer (ws : List CallWord) : (s.takeCall ws).transactionReadBuffer = s.transactionReadBuffer := rfl
@[simp] theorem State.takeCall_userBuffer (ws : List CallWord) : (s.takeCall ws).userBuffer = s.userBuffer := rfl
@[simp] theorem State.takeCall_userBufferSnapshot (ws : List CallWord) : (s.takeCall ws).userBufferSnapshot = s.userBufferSnapshot := rfl
@[simp] theorem State.takeCall_appTurn (ws : List CallWord) : (s.takeCall ws).appTurn = s.appTurn := rfl
@[simp] theorem State.takeCall_busTouched (ws : List CallWord) : (s.takeCall ws).busTouched = s.busTouched := rfl
@[simp] theorem State.takeCall_initDone (ws : List CallWord) : (s.takeCall ws).initDone = s.initDone := rfl
@[simp] theorem State.takeCall_ownAddr (ws : List CallWord) : (s.takeCall ws).ownAddr = s.ownAddr := rfl
@[simp] theorem State.takeCall_outTrace (ws : List CallWord) : (s.takeCall ws).outTrace = s.outTrace := rfl
@[simp] theorem State.takeCall_faults (ws : List CallWord) : (s.takeCall ws).faults = s.faults := rfl
@[simp] theorem State.takeCall_appResults (ws : List CallWord) : (s.takeCall ws).appResults = s.appResults := rfl
@[simp] theorem State.takeCall_busPort (ws : List CallWord) : (s.takeCall ws).busPort = s.busPort := rfl
@[simp] theorem State.takeCall_callPort (ws : List CallWord) : (s.takeCall ws).callPort = ws := rfl
@[simp] theorem State.takeCall_choices (ws : List CallWord) : (s.takeCall ws).choices = s.choices + 1 := rfl

end Sys2Proof.Machine
end

