-- ==== Sys2Proof/Laws/Ops.lean ====
section
/-! SUPPORT. What each shared operation can do, said once: the fault gate, an event step, a mainline call. -/

namespace Sys2Proof.Machine

@[simp] theorem Flow.andThen_done {α β : Type} (a : α) (s : State) (f : α → State → Flow β) :
    (Flow.done a s).andThen f = f a s := rfl

@[simp] theorem Flow.andThen_raised {α β : Type} (s : State) (f : α → State → Flow β) :
    (Flow.raised s : Flow α).andThen f = .raised s := rfl

@[simp] theorem Flow.toOutcome_done (a : Unit) (s : State) : (Flow.done a s).toOutcome = .next s := rfl

@[simp] theorem Flow.toOutcome_raised (s : State) : (Flow.raised s : Flow Unit).toOutcome = .next s := rfl

/-- The fault gate lets the step through exactly when nothing is recorded (R148). -/
theorem whenNoFault_nil {s : State} (h : s.faults = []) (k : Host.Outcome State Fault Refusal) :
    whenNoFault s k = k := by simp [whenNoFault, h]

theorem whenNoFault_cons {s : State} {r : FaultRecord} {l : List FaultRecord} (h : s.faults = r :: l)
    (k : Host.Outcome State Fault Refusal) : whenNoFault s k = .fault (.halted r) := by simp [whenNoFault, h]

theorem whenNoFault_next {s t : State} {k : Host.Outcome State Fault Refusal} :
    whenNoFault s k = .next t ↔ s.faults = [] ∧ k = .next t := by
  cases h : s.faults with
  | nil => simp [whenNoFault_nil h]
  | cons r l => simp [whenNoFault_cons h]

/-- Every way an event step answers a next state (R84): its action ran through and the acknowledge follows, or its action
raised and nothing follows. -/
theorem busEvent_next {body : State → Flow Unit} {ack : Bool} {s t : State} (h : busEvent body ack s = .next t) :
    s.faults = [] ∧ s.initDone = true ∧
      ((∃ u, body s = .done () u ∧ t = if ack then u.emit .ackNext else u) ∨ body s = .raised t) := by
  obtain ⟨hf, h⟩ := whenNoFault_next.1 h
  split at h
  · rename_i hi
    refine ⟨hf, hi, ?_⟩
    cases hb : body s with
    | done a u =>
      rw [hb] at h
      exact .inl ⟨u, rfl, (by simpa [returnFromEvent] using h.symm)⟩
    | raised u =>
      rw [hb] at h
      exact .inr (by simpa using h)
  · cases h

theorem busEvent_done {body : State → Flow Unit} {ack : Bool} {s u : State} (hf : s.faults = [])
    (hi : s.initDone = true) (hb : body s = .done () u) :
    busEvent body ack s = .next (if ack then u.emit .ackNext else u) := by
  simp [busEvent, whenNoFault_nil hf, hi, hb, returnFromEvent]

theorem busEvent_raised {body : State → Flow Unit} {ack : Bool} {s u : State} (hf : s.faults = [])
    (hi : s.initDone = true) (hb : body s = .raised u) : busEvent body ack s = .next u := by
  simp [busEvent, whenNoFault_nil hf, hi, hb]

theorem busEvent_disabled {body : State → Flow Unit} {ack : Bool} {s : State} (hf : s.faults = [])
    (hi : s.initDone = false) : busEvent body ack s = .refused .busDisabled := by
  simp [busEvent, whenNoFault_nil hf, hi]

theorem busEvent_halted {body : State → Flow Unit} {ack : Bool} {s : State} {r : FaultRecord} {l : List FaultRecord}
    (h : s.faults = r :: l) : busEvent body ack s = .fault (.halted r) := whenNoFault_cons h _

/-- Every way a mainline call answers a next state (R119). -/
theorem mainlineCall_next {body : State → Flow Unit} {s t : State} (h : mainlineCall body s = .next t) :
    s.faults = [] ∧ (body s = .done () t ∨ body s = .raised t) := by
  obtain ⟨hf, h⟩ := whenNoFault_next.1 h
  refine ⟨hf, ?_⟩
  cases hb : body s with
  | done a u => rw [hb] at h; exact .inl (by simpa using h)
  | raised u => rw [hb] at h; exact .inr (by simpa using h)

theorem mainlineCall_done {body : State → Flow Unit} {s u : State} (hf : s.faults = [])
    (hb : body s = .done () u) : mainlineCall body s = .next u := by
  simp [mainlineCall, whenNoFault_nil hf, hb]

theorem mainlineCall_raised {body : State → Flow Unit} {s u : State} (hf : s.faults = [])
    (hb : body s = .raised u) : mainlineCall body s = .next u := by
  simp [mainlineCall, whenNoFault_nil hf, hb]

theorem mainlineCall_halted {body : State → Flow Unit} {s : State} {r : FaultRecord} {l : List FaultRecord}
    (h : s.faults = r :: l) : mainlineCall body s = .fault (.halted r) := whenNoFault_cons h _

/-- Raising records one entry and changes nothing else. -/
@[simp] theorem raise_eq {α : Type} (r : FaultRecord) (s : State) :
    (raise r s : Flow α) = .raised (s.addFault r) := rfl

end Sys2Proof.Machine
end

