-- ==== Sys2Proof/Laws/Application.lean ====
section
/-! SUPPORT. One specification lemma for each part of the application's calls (R120–R128). -/

namespace Sys2Proof.Machine

theorem commitBytes_wf {m : Memory} (h : m.wf = true) (user snap : Memory) (n : Nat) :
    (commitBytes user snap n m).wf = true := by
  induction n with
  | zero => exact h
  | succ n ih =>
    rw [commitBytes]
    split
    · exact Memory.wf_write ih _ _
    · exact ih

/-- The diff-and-write loop, byte by byte (R122): a changed byte is written, an unchanged one is left alone. -/
theorem commitBytes_read {m : Memory} (h : m.wf = true) (user snap : Memory) (n p : Nat) :
    (commitBytes user snap n m).read p =
      if p < n ∧ user.read p ≠ snap.read p then user.read p else m.read p := by
  induction n with
  | zero => rw [if_neg (by omega)]; rfl
  | succ n ih =>
    rw [commitBytes]
    by_cases hc : user.read n = snap.read n
    · have : changed user snap n = false := by simp [changed, hc]
      rw [this, if_neg (by simp), ih]
      by_cases hp : p = n
      · subst hp; rw [if_neg (by omega), if_neg (fun e => e.2 hc)]
      · simp only [show p < n + 1 ↔ p < n by omega]
    · rw [changed_iff.2 hc, if_pos rfl, Memory.read_write (commitBytes_wf h user snap n), ih]
      by_cases hp : p = n
      · subst hp; rw [if_pos rfl, if_pos ⟨by omega, hc⟩]
      · rw [if_neg hp]; simp only [show p < n + 1 ↔ p < n by omega]

theorem commitBytes_fits {k n : Nat} {m : Memory} (h : m.fits n = true) (user snap : Memory) (hk : k ≤ n) :
    (commitBytes user snap k m).fits n = true := by
  induction k with
  | zero => exact h
  | succ k ih =>
    rw [commitBytes]
    split
    · exact Memory.fits_write (ih (by omega)) (by omega) _
    · exact ih (by omega)

/-- Nothing changed, nothing written (R131). -/
@[simp] theorem commitBytes_self (m st : Memory) (n : Nat) : commitBytes m m n st = st := by
  induction n with
  | zero => rfl
  | succ n ih => rw [commitBytes, changed_self]; simpa using ih

/-- No conflict (R123): no position below `n` was both changed by the application and written by the bus. -/
theorem firstConflict_none {n : Nat} {user snap : Memory} {l : PosSet} :
    firstConflict n user snap l = none ↔ ∀ p < n, user.read p ≠ snap.read p → p ∉ l := by
  simp [firstConflict]

/-- A conflict (R123): the lowest such position. -/
theorem firstConflict_some {n p : Nat} {user snap : Memory} {l : PosSet} :
    firstConflict n user snap l = some p ↔
      p < n ∧ user.read p ≠ snap.read p ∧ p ∈ l ∧ ∀ q < p, user.read q ≠ snap.read q → q ∉ l := by
  have hneg : ∀ q, (!(changed user snap q && touched l q)) = true ↔ (user.read q ≠ snap.read q → q ∉ l) := by
    intro q
    simp only [changed, touched, Bool.not_eq_true', Bool.and_eq_false_iff, bne_eq_false_iff_eq, ne_eq]
    simp only [List.contains_eq_mem, decide_eq_false_iff_not]
    tauto
  simp only [firstConflict, List.find?_range_eq_some, Bool.and_eq_true, changed_iff, touched_iff, List.mem_range, hneg]
  tauto

@[simp] theorem firstConflict_self (n : Nat) (m : Memory) (l : PosSet) : firstConflict n m m l = none :=
  firstConflict_none.2 fun _ _ h => absurd rfl h

theorem requireTurn_opened {s : State} (h : s.appTurn = .opened) (call : Instr) :
    requireTurn call s = .done () s := by simp [requireTurn, h, skip]

theorem requireTurn_raised {s : State} (h : s.appTurn ≠ .opened) (call : Instr) :
    requireTurn call s = .raised (s.addFault (.appNoTurn call)) := by simp [requireTurn, h]

theorem requireIndex_done {s : State} {i : Byte} (h : i.toNat < s.cfg.size) : requireIndex i s = .done () s := by
  simp [requireIndex, indexOfByte, Nat.not_le.2 h, skip]

theorem requireIndex_raised {s : State} {i : Byte} (h : s.cfg.size ≤ i.toNat) :
    requireIndex i s = .raised (s.addFault (.appIndex i)) := by simp [requireIndex, indexOfByte, h]

/-- Every way `COMMIT()` ends (R122–R124). -/
theorem commit_cases (s : State) :
    (s.appTurn ≠ .opened ∧
      commitBody s = .raised (s.addFault (.appNoTurn .commit))) ∨
    (s.appTurn = .opened ∧
      ∃ p, firstConflict s.cfg.size s.userBuffer s.userBufferSnapshot s.busTouched = some p ∧
      commitBody s = .raised (s.addFault (.conflict p))) ∨
    (s.appTurn = .opened ∧
      firstConflict s.cfg.size s.userBuffer s.userBufferSnapshot s.busTouched = none ∧
      commitBody s =
        .done () (s.closeTurn (commitBytes s.userBuffer s.userBufferSnapshot s.cfg.size s.staging))) := by
  by_cases h : s.appTurn = .opened
  · right
    cases hc : firstConflict s.cfg.size s.userBuffer s.userBufferSnapshot s.busTouched with
    | some p => left; simp [commitBody, requireTurn_opened h, commitDiff, hc, h]
    | none => right; simp [commitBody, requireTurn_opened h, commitDiff, hc, h]
  · left; simp [commitBody, requireTurn_raised h, h]

/-- Every way `UREAD(i)` ends (R126, R128). -/
theorem uread_cases (i : Byte) (s : State) :
    (s.appTurn ≠ .opened ∧
      ureadBody i s = .raised (s.addFault (.appNoTurn (.uread i)))) ∨
    (s.appTurn = .opened ∧ s.cfg.size ≤ i.toNat ∧
      ureadBody i s = .raised (s.addFault (.appIndex i))) ∨
    (s.appTurn = .opened ∧ i.toNat < s.cfg.size ∧
      ureadBody i s = .done () (s.giveResult (s.userBuffer.read i.toNat))) := by
  by_cases h : s.appTurn = .opened
  · right
    by_cases hn : s.cfg.size ≤ i.toNat
    · left; simp [ureadBody, requireTurn_opened h, requireIndex_raised hn, h, hn]
    · right; simp [ureadBody, requireTurn_opened h, requireIndex_done (Nat.not_le.1 hn), h, Nat.not_le.1 hn, indexOfByte]
  · left; simp [ureadBody, requireTurn_raised h, h]

/-- Every way `UWRITE(i, v)` ends (R127, R128). -/
theorem uwrite_cases (i v : Byte) (s : State) :
    (s.appTurn ≠ .opened ∧
      uwriteBody i v s = .raised (s.addFault (.appNoTurn (.uwrite i v)))) ∨
    (s.appTurn = .opened ∧ s.cfg.size ≤ i.toNat ∧
      uwriteBody i v s = .raised (s.addFault (.appIndex i))) ∨
    (s.appTurn = .opened ∧ i.toNat < s.cfg.size ∧
      uwriteBody i v s = .done () (s.writeUser i.toNat v)) := by
  by_cases h : s.appTurn = .opened
  · right
    by_cases hn : s.cfg.size ≤ i.toNat
    · left; simp [uwriteBody, requireTurn_opened h, requireIndex_raised hn, h, hn]
    · right; simp [uwriteBody, requireTurn_opened h, requireIndex_done (Nat.not_le.1 hn), h, Nat.not_le.1 hn, indexOfByte]
  · left; simp [uwriteBody, requireTurn_raised h, h]

/-- Every way `INIT(addr)` ends (R133, R134, R136). -/
theorem init_cases (a : Addr7) (s : State) :
    (s.initDone = true ∧
      initBody a s = .raised (s.addFault (.doubleInit a))) ∨
    (s.initDone = false ∧ legalAddress a = false ∧
      initBody a s = .raised (s.addFault (.badAddress a))) ∨
    (s.initDone = false ∧ legalAddress a = true ∧
      initBody a s = .done () (s.register a)) := by
  cases h : s.initDone <;> cases hl : legalAddress a <;> simp [initBody, h, hl]

end Sys2Proof.Machine
end

