-- ==== Sys2Proof/Laws/BufferManager.lean ====
section
/-! SUPPORT. One specification lemma for each callback of the buffer manager and for the loops they run. -/

namespace Sys2Proof.Machine

/-- The batch apply, byte by byte (R108): the positions `offset .. offset+k-1` hold the batch, no other position changes. -/
theorem applyBytes_read {m : Memory} (h : m.wf = true) (pw : Memory) (offset k p : Nat) :
    (applyBytes pw offset k m).read p = if offset ≤ p ∧ p < offset + k then pw.read (p - offset) else m.read p := by
  have hwf : ∀ k, (applyBytes pw offset k m).wf = true := by
    intro k
    induction k with
    | zero => exact h
    | succ k ih => exact Memory.wf_write ih _ _
  induction k with
  | zero => rw [if_neg (by omega)]; rfl
  | succ k ih =>
    rw [applyBytes, Memory.read_write (hwf k), applyPosition, ih]
    by_cases hp : p = offset + k
    · subst hp; rw [if_pos rfl, if_pos (by omega)]; congr 1; omega
    · rw [if_neg hp]
      by_cases hr : offset ≤ p ∧ p < offset + k
      · rw [if_pos hr, if_pos (by omega)]
      · rw [if_neg hr, if_neg (by omega)]

theorem applyBytes_fits {n : Nat} {m : Memory} (h : m.fits n = true) (pw : Memory) {offset k : Nat}
    (hk : offset + k ≤ n) : (applyBytes pw offset k m).fits n = true := by
  induction k with
  | zero => exact h
  | succ k ih => exact Memory.fits_write (ih (by omega)) (by simp only [applyPosition]; omega) _

theorem mem_touchRange {l : PosSet} {offset k p : Nat} :
    p ∈ touchRange offset k l ↔ p ∈ l ∨ (offset ≤ p ∧ p < offset + k) := by
  induction k with
  | zero => simp only [touchRange]; constructor <;> intro h <;> first | exact .inl h | (rcases h with h | h; exact h; omega)
  | succ k ih =>
    rw [touchRange, PosSet.mem_insert, ih, applyPosition]
    constructor
    · rintro (rfl | h | h)
      · exact .inr (by omega)
      · exact .inl h
      · exact .inr (by omega)
    · rintro (h | h)
      · exact .inr (.inl h)
      · by_cases hp : p = offset + k
        · exact .inl hp
        · exact .inr (.inr (by omega))

theorem touchRange_fits {n : Nat} {l : PosSet} (h : l.fits n = true) {offset k : Nat} (hk : offset + k ≤ n) :
    (touchRange offset k l).fits n = true := by
  induction k with
  | zero => exact h
  | succ k ih => exact PosSet.fits_insert (ih (by omega)) (by simp only [applyPosition]; omega)

/-- `onReceiveByte(b)` in AwaitingOffset (R103). -/
theorem onReceiveByte_awaitingOffset {s : State} (h : s.txState = .awaitingOffset) (b : Byte) :
    onReceiveByte b s = .done () ((beginCallback s).takeOffset b.toNat) := by
  simp [onReceiveByte, receiveByte, beginCallback, h, receiveOffset, offsetOfByte]

/-- `onReceiveByte(b)` in Active (R104). -/
theorem onReceiveByte_active {s : State} (h : s.txState = .active) (b : Byte) :
    onReceiveByte b s =
        .done () ((beginCallback s).appendAt (appendIndex s.cfg.cap s.pendingCount) b) := by
  simp [onReceiveByte, receiveByte, beginCallback, h, receiveData]

/-- `onReceiveByte(b)` in Idle (R105). -/
theorem onReceiveByte_idle {s : State} (h : s.txState = .idle) (b : Byte) :
    onReceiveByte b s = .raised ((beginCallback s).addFault (.rxIdle b)) := by
  simp [onReceiveByte, receiveByte, beginCallback, h]

/-- `onRequestByte()` with no offset received (R107.1). -/
theorem onRequestByte_noOffset {s : State} (h : s.offsetValid = false) :
    onRequestByte s = .raised ((beginCallback s).addFault .readNoOffset) := by
  simp [onRequestByte, requestByte, beginCallback, h]

/-- `onRequestByte()` past the end (R107.2). -/
theorem onRequestByte_oob {s : State} (h : s.offsetValid = true) (hn : s.cfg.size ≤ s.offset) :
    onRequestByte s = .raised ((beginCallback s).addFault (.readOob s.offset)) := by
  simp [onRequestByte, requestByte, beginCallback, h, hn]

/-- `onRequestByte()` (R106). -/
theorem onRequestByte_done {s : State} (h : s.offsetValid = true) (hn : s.offset < s.cfg.size) :
    onRequestByte s = .done (s.transactionReadBuffer.read s.offset) (beginCallback s).advanceOffset := by
  simp [onRequestByte, requestByte, beginCallback, h, Nat.not_le.2 hn]

/-- `onStop()` with nothing pending (R108, C5). -/
theorem onStop_empty {s : State} (h : s.pendingCount = 0) : onStop s = .done () (beginCallback s).goIdle := by
  simp [onStop, stopBatch, beginCallback, h, skip]

/-- `onStop()` past the end (R109). -/
theorem onStop_oob {s : State} (h : 0 < s.pendingCount) (hn : s.cfg.size < s.offset + s.pendingCount) :
    onStop s = .raised ((beginCallback s).addFault (.writeOob s.offset s.pendingCount)) := by
  simp [onStop, stopBatch, beginCallback, h, hn]

/-- `onStop()` applying the batch (R108). -/
theorem onStop_apply {s : State} (h : 0 < s.pendingCount) (hn : s.offset + s.pendingCount ≤ s.cfg.size) :
    onStop s = .done () (beginCallback s).applyBatch.goIdle := by
  simp [onStop, stopBatch, beginCallback, h, Nat.not_lt.2 hn]

/-- Every way a byte is transmitted or not (R106, R107). -/
theorem transmitNext_cases (s : State) :
    (s.offsetValid = true ∧ s.offset < s.cfg.size ∧
      transmitNext s =
        .done () ((beginCallback s).advanceOffset.emit (.txByte (s.transactionReadBuffer.read s.offset)))) ∨
    (s.offsetValid = false ∧
      transmitNext s = .raised ((beginCallback s).addFault .readNoOffset)) ∨
    (s.offsetValid = true ∧ s.cfg.size ≤ s.offset ∧
      transmitNext s = .raised ((beginCallback s).addFault (.readOob s.offset))) := by
  unfold transmitNext
  cases hv : s.offsetValid with
  | false => right; left; simp [onRequestByte_noOffset hv]
  | true =>
    by_cases hn : s.offset < s.cfg.size
    · left; simp [onRequestByte_done hv hn, hn]
    · right; right; simp [onRequestByte_oob hv (Nat.not_lt.1 hn)]; omega

/-- Every way `onStop()` ends (R108, R109). -/
theorem onStop_cases (s : State) :
    (s.pendingCount = 0 ∧
      onStop s = .done () (beginCallback s).goIdle) ∨
    (0 < s.pendingCount ∧ s.offset + s.pendingCount ≤ s.cfg.size ∧
      onStop s = .done () (beginCallback s).applyBatch.goIdle) ∨
    (0 < s.pendingCount ∧ s.cfg.size < s.offset + s.pendingCount ∧
      onStop s = .raised ((beginCallback s).addFault (.writeOob s.offset s.pendingCount))) := by
  rcases Nat.eq_zero_or_pos s.pendingCount with h | h
  · exact .inl ⟨h, onStop_empty h⟩
  · by_cases hn : s.offset + s.pendingCount ≤ s.cfg.size
    · exact .inr (.inl ⟨h, hn, onStop_apply h hn⟩)
    · exact .inr (.inr ⟨h, by omega, onStop_oob h (by omega)⟩)

/-- Every way `onReceiveByte(b)` ends (R102). -/
theorem onReceiveByte_cases (b : Byte) (s : State) :
    (s.txState = .awaitingOffset ∧
      onReceiveByte b s = .done () ((beginCallback s).takeOffset b.toNat)) ∨
    (s.txState = .active ∧
      onReceiveByte b s =
        .done () ((beginCallback s).appendAt (appendIndex s.cfg.cap s.pendingCount) b)) ∨
    (s.txState = .idle ∧
      onReceiveByte b s = .raised ((beginCallback s).addFault (.rxIdle b))) := by
  cases h : s.txState with
  | idle => exact .inr (.inr ⟨rfl, onReceiveByte_idle h b⟩)
  | awaitingOffset => exact .inl ⟨rfl, onReceiveByte_awaitingOffset h b⟩
  | active => exact .inr (.inl ⟨rfl, onReceiveByte_active h b⟩)

end Sys2Proof.Machine
end

