-- ==== Sys2Proof/Laws/Effect.lean ====
section
/-! SUPPORT. Everything an input can do, said once: if `exec` answers a next state, one of these cases holds. Whole-machine
facts are proved from this list, not from the meanings. -/

namespace Sys2Proof.Machine

/-- The next states an input can lead to, one case for each way its pseudocode ends. -/
inductive Effect : Instr → State → State → Prop where
  | start (s : State) (hi : s.initDone = true) :
      Effect .srAddr s ((beginCallback s).beginTransaction.emit .ackNext)
  | offset (s : State) (b : Byte) (hi : s.initDone = true) (h : s.txState = .awaitingOffset) :
      Effect (.srDataAck b) s (((beginCallback s).takeOffset b.toNat).emit .ackNext)
  | data (s : State) (b : Byte) (hi : s.initDone = true) (h : s.txState = .active) :
      Effect (.srDataAck b) s
        (((beginCallback s).appendAt (appendIndex s.cfg.cap s.pendingCount) b).emit .ackNext)
  | rxIdle (s : State) (b : Byte) (hi : s.initDone = true) (h : s.txState = .idle) :
      Effect (.srDataAck b) s ((beginCallback s).addFault (.rxIdle b))
  | dataNack (s : State) (b : Byte) (hi : s.initDone = true) : Effect (.srDataNack b) s (s.emit .ackNext)
  | stopEmpty (s : State) (hi : s.initDone = true) (h : s.pendingCount = 0) :
      Effect .srStop s ((beginCallback s).goIdle.emit .ackNext)
  | stopApply (s : State) (hi : s.initDone = true) (h : 0 < s.pendingCount)
      (hn : s.offset + s.pendingCount ≤ s.cfg.size) :
      Effect .srStop s ((beginCallback s).applyBatch.goIdle.emit .ackNext)
  | writeOob (s : State) (hi : s.initDone = true) (h : 0 < s.pendingCount)
      (hn : s.cfg.size < s.offset + s.pendingCount) :
      Effect .srStop s ((beginCallback s).addFault (.writeOob s.offset s.pendingCount))
  | transmit (s : State) (i : Instr) (hi : s.initDone = true) (hr : i = .stAddr ∨ i = .stDataAck)
      (h : s.offsetValid = true) (hn : s.offset < s.cfg.size) :
      Effect i s
        (((beginCallback s).advanceOffset.emit (.txByte (s.transactionReadBuffer.read s.offset))).emit .ackNext)
  | readNoOffset (s : State) (i : Instr) (hi : s.initDone = true) (hr : i = .stAddr ∨ i = .stDataAck)
      (h : s.offsetValid = false) : Effect i s ((beginCallback s).addFault .readNoOffset)
  | readOob (s : State) (i : Instr) (hi : s.initDone = true) (hr : i = .stAddr ∨ i = .stDataAck)
      (h : s.offsetValid = true) (hn : s.cfg.size ≤ s.offset) :
      Effect i s ((beginCallback s).addFault (.readOob s.offset))
  | acknowledged (s : State) (i : Instr) (hi : s.initDone = true)
      (hr : i = .stDataNack ∨ i = .stLastData ∨ i = .noInfo ∨ ∃ st, i = .other st) : Effect i s (s.emit .ackNext)
  | busErrorAck (s : State) (hi : s.initDone = true) (h : s.cfg.ackAfterBusError = true) :
      Effect .busError s ((s.emit .recoverBusError).emit .ackNext)
  | busErrorSilent (s : State) (hi : s.initDone = true) (h : s.cfg.ackAfterBusError = false) :
      Effect .busError s (s.emit .recoverBusError)
  | snapshot (s : State) : Effect .snapshot s s.openTurn
  | commit (s : State) (h : s.appTurn = .opened)
      (hc : firstConflict s.cfg.size s.userBuffer s.userBufferSnapshot s.busTouched = none) :
      Effect .commit s (s.closeTurn (commitBytes s.userBuffer s.userBufferSnapshot s.cfg.size s.staging))
  | conflict (s : State) (p : Nat) (h : s.appTurn = .opened)
      (hc : firstConflict s.cfg.size s.userBuffer s.userBufferSnapshot s.busTouched = some p) :
      Effect .commit s (s.addFault (.conflict p))
  | commitNoTurn (s : State) (h : s.appTurn ≠ .opened) : Effect .commit s (s.addFault (.appNoTurn .commit))
  | uread (s : State) (k : Byte) (h : s.appTurn = .opened) (hn : k.toNat < s.cfg.size) :
      Effect (.uread k) s (s.giveResult (s.userBuffer.read k.toNat))
  | ureadIndex (s : State) (k : Byte) (h : s.appTurn = .opened) (hn : s.cfg.size ≤ k.toNat) :
      Effect (.uread k) s (s.addFault (.appIndex k))
  | ureadNoTurn (s : State) (k : Byte) (h : s.appTurn ≠ .opened) :
      Effect (.uread k) s (s.addFault (.appNoTurn (.uread k)))
  | uwrite (s : State) (k v : Byte) (h : s.appTurn = .opened) (hn : k.toNat < s.cfg.size) :
      Effect (.uwrite k v) s (s.writeUser k.toNat v)
  | uwriteIndex (s : State) (k v : Byte) (h : s.appTurn = .opened) (hn : s.cfg.size ≤ k.toNat) :
      Effect (.uwrite k v) s (s.addFault (.appIndex k))
  | uwriteNoTurn (s : State) (k v : Byte) (h : s.appTurn ≠ .opened) :
      Effect (.uwrite k v) s (s.addFault (.appNoTurn (.uwrite k v)))
  | init (s : State) (a : Addr7) (hi : s.initDone = false) (hl : legalAddress a = true) :
      Effect (.init a) s (s.register a)
  | doubleInit (s : State) (a : Addr7) (hi : s.initDone = true) :
      Effect (.init a) s (s.addFault (.doubleInit a))
  | badAddress (s : State) (a : Addr7) (hi : s.initDone = false) (hl : legalAddress a = false) :
      Effect (.init a) s (s.addFault (.badAddress a))

theorem busEvent_skip_next {s t : State} (h : busEvent skip true s = .next t) :
    s.initDone = true ∧ t = s.emit .ackNext := by
  obtain ⟨-, hi, ⟨u, hu, rfl⟩ | hr⟩ := busEvent_next h
  · cases hu; exact ⟨hi, rfl⟩
  · cases hr

theorem transmit_effect {i : Instr} (hr : i = .stAddr ∨ i = .stDataAck) {s t : State}
    (h : busEvent transmitNext true s = .next t) : Effect i s t := by
  obtain ⟨-, hi, h⟩ := busEvent_next h
  rcases transmitNext_cases s with ⟨hv, hn, e⟩ | ⟨hv, e⟩ | ⟨hv, hn, e⟩ <;> rw [e] at h
  · obtain ⟨u, hu, rfl⟩ | h := h
    · cases hu; exact .transmit s i hi hr hv hn
    · cases h
  · obtain ⟨u, hu, -⟩ | h := h
    · cases hu
    · cases h; exact .readNoOffset s i hi hr hv
  · obtain ⟨u, hu, -⟩ | h := h
    · cases hu
    · cases h; exact .readOob s i hi hr hv hn

/-- Everything an input can do. -/
theorem exec_effect {i : Instr} {s t : State} (h : exec i s = .next t) : s.faults = [] ∧ Effect i s t := by
  cases i with
  | srAddr =>
    obtain ⟨hf, hi, ⟨u, hu, rfl⟩ | hr⟩ := busEvent_next h
    · cases hu; exact ⟨hf, .start s hi⟩
    · cases hr
  | srDataAck b =>
    obtain ⟨hf, hi, h⟩ := busEvent_next h
    refine ⟨hf, ?_⟩
    rcases onReceiveByte_cases b s with ⟨ht, e⟩ | ⟨ht, e⟩ | ⟨ht, e⟩ <;> rw [e] at h
    · obtain ⟨u, hu, rfl⟩ | h := h
      · cases hu; exact .offset s b hi ht
      · cases h
    · obtain ⟨u, hu, rfl⟩ | h := h
      · cases hu; exact .data s b hi ht
      · cases h
    · obtain ⟨u, hu, -⟩ | h := h
      · cases hu
      · cases h; exact .rxIdle s b hi ht
  | srDataNack b =>
    obtain ⟨hi, rfl⟩ := busEvent_skip_next h
    exact ⟨(busEvent_next h).1, .dataNack s b hi⟩
  | srStop =>
    obtain ⟨hf, hi, h⟩ := busEvent_next h
    refine ⟨hf, ?_⟩
    rcases onStop_cases s with ⟨hc, e⟩ | ⟨hc, hn, e⟩ | ⟨hc, hn, e⟩ <;> rw [e] at h
    · obtain ⟨u, hu, rfl⟩ | h := h
      · cases hu; exact .stopEmpty s hi hc
      · cases h
    · obtain ⟨u, hu, rfl⟩ | h := h
      · cases hu; exact .stopApply s hi hc hn
      · cases h
    · obtain ⟨u, hu, -⟩ | h := h
      · cases hu
      · cases h; exact .writeOob s hi hc hn
  | stAddr => exact ⟨(busEvent_next h).1, transmit_effect (.inl rfl) h⟩
  | stDataAck => exact ⟨(busEvent_next h).1, transmit_effect (.inr rfl) h⟩
  | stDataNack =>
    obtain ⟨hi, rfl⟩ := busEvent_skip_next h
    exact ⟨(busEvent_next h).1, .acknowledged s _ hi (.inl rfl)⟩
  | stLastData =>
    obtain ⟨hi, rfl⟩ := busEvent_skip_next h
    exact ⟨(busEvent_next h).1, .acknowledged s _ hi (.inr (.inl rfl))⟩
  | noInfo =>
    obtain ⟨hi, rfl⟩ := busEvent_skip_next h
    exact ⟨(busEvent_next h).1, .acknowledged s _ hi (.inr (.inr (.inl rfl)))⟩
  | busError =>
    obtain ⟨hf, hi, ⟨u, hu, rfl⟩ | hr⟩ := busEvent_next h
    · cases hu
      refine ⟨hf, ?_⟩
      cases ha : s.cfg.ackAfterBusError with
      | true => exact .busErrorAck s hi ha
      | false => exact .busErrorSilent s hi ha
    · cases hr
  | other st =>
    obtain ⟨hi, rfl⟩ := busEvent_skip_next h
    exact ⟨(busEvent_next h).1, .acknowledged s _ hi (.inr (.inr (.inr ⟨st, rfl⟩)))⟩
  | snapshot =>
    obtain ⟨hf, h | h⟩ := mainlineCall_next h <;> cases h
    exact ⟨hf, .snapshot s⟩
  | commit =>
    obtain ⟨hf, h⟩ := mainlineCall_next h
    refine ⟨hf, ?_⟩
    rcases commit_cases s with ⟨ht, e⟩ | ⟨ht, p, hc, e⟩ | ⟨ht, hc, e⟩ <;> rw [e] at h <;> rcases h with h | h <;> cases h
    · exact .commitNoTurn s ht
    · exact .conflict s p ht hc
    · exact .commit s ht hc
  | uread k =>
    obtain ⟨hf, h⟩ := mainlineCall_next h
    refine ⟨hf, ?_⟩
    rcases uread_cases k s with ⟨ht, e⟩ | ⟨ht, hn, e⟩ | ⟨ht, hn, e⟩ <;> rw [e] at h <;> rcases h with h | h <;> cases h
    · exact .ureadNoTurn s k ht
    · exact .ureadIndex s k ht hn
    · exact .uread s k ht hn
  | uwrite k v =>
    obtain ⟨hf, h⟩ := mainlineCall_next h
    refine ⟨hf, ?_⟩
    rcases uwrite_cases k v s with ⟨ht, e⟩ | ⟨ht, hn, e⟩ | ⟨ht, hn, e⟩ <;> rw [e] at h <;> rcases h with h | h <;>
      cases h
    · exact .uwriteNoTurn s k v ht
    · exact .uwriteIndex s k v ht hn
    · exact .uwrite s k v ht hn
  | init a =>
    obtain ⟨hf, h⟩ := mainlineCall_next h
    refine ⟨hf, ?_⟩
    rcases init_cases a s with ⟨hi, e⟩ | ⟨hi, hl, e⟩ | ⟨hi, hl, e⟩ <;> rw [e] at h <;> rcases h with h | h <;> cases h
    · exact .doubleInit s a hi
    · exact .badAddress s a hi hl
    · exact .init s a hi hl

/-- Every callback begins with its delay and no other write (R100). -/
@[simp] theorem beginCallback_outTrace (s : State) :
    (beginCallback s).outTrace = s.outTrace ++ [.delay s.cfg.delayUs] := rfl

/-- The delay changes the output trace only. -/
theorem beginCallback_eq (s : State) : beginCallback s = { s with outTrace := s.outTrace ++ [.delay s.cfg.delayUs] } :=
  rfl

/-- The batch apply writes `staging`, `busTouched` and `pendingCount` only (R108). -/
theorem applyBatch_eq (s : State) : s.applyBatch = s.landBatch
    (applyBytes s.pendingWrites s.offset s.pendingCount s.staging)
    (if s.appTurn = .opened then touchRange s.offset s.pendingCount s.busTouched else s.busTouched) := rfl

end Sys2Proof.Machine
end

