-- ==== Sys2Proof/Laws/Encoding.lean ====
section
/-! SUPPORT. The fields of an encoded word read back (R65, R69): one lemma for each field. -/

namespace Sys2Proof

/-- What R68 asks of the event codes: multiples of 8, all distinct. -/
theorem EventCodes.wf_iff {c : EventCodes} :
    c.wf = true ↔ (∀ v ∈ c.toList, v &&& 0xF8#8 = v) ∧ c.toList.Nodup := by
  simp only [EventCodes.wf, Bool.and_eq_true, List.all_eq_true, decide_eq_true_eq]

theorem statusOf_busWord {d s : Byte} (h : s &&& 0xF8#8 = s) : statusOf (busWord d s) = s := by
  have : (busWord d s).extractLsb' 0 8 = s := by
    unfold busWord
    ext i hi
    have h16 : i < 16 := by omega
    simp [hi, h16]
  rw [statusOf, this, h]

@[simp] theorem dataOf_busWord (d s : Byte) : dataOf (busWord d s) = d := by
  unfold dataOf busWord
  ext i hi
  have h16 : 8 + i < 16 := by omega
  simp [hi, h16]

theorem otherStatusByte_masked (st : BitVec 5) : otherStatusByte st &&& 0xF8#8 = otherStatusByte st := by
  revert st; decide

@[simp] theorem status_busWord_other (st : BitVec 5) : (busWord 0 (otherStatusByte st)).extractLsb' 3 5 = st := by
  revert st; decide

@[simp] theorem opOf_callWord (v a : Byte) (op : BitVec 4) : opOf (callWord v a op) = op := by
  unfold opOf callWord
  ext i hi
  have h16 : i < 16 := by omega
  have h8 : i < 8 := by omega
  have h24 : i < 24 := by omega
  simp [hi, h8, h16, h24]

@[simp] theorem reservedOf_callWord (v a : Byte) (op : BitVec 4) : reservedOf (callWord v a op) = 0 := by
  unfold reservedOf callWord
  ext i hi
  have h16 : 4 + i < 16 := by omega
  have h8 : 4 + i < 8 := by omega
  simp [h8, h16]

@[simp] theorem argOf_callWord (v a : Byte) (op : BitVec 4) : argOf (callWord v a op) = a := by
  unfold argOf callWord
  ext i hi
  have h16 : 8 + i < 16 := by omega
  have h24 : 8 + i < 24 := by omega
  have ho : op.getLsbD (8 + i) = false := BitVec.getLsbD_of_ge _ _ (by omega)
  simp [hi, h16, h24, ho]

@[simp] theorem valueOf_callWord (v a : Byte) (op : BitVec 4) : valueOf (callWord v a op) = v := by
  unfold valueOf callWord
  ext i hi
  have h24 : 16 + i < 24 := by omega
  have e : 8 ≤ 16 + i - 8 := by omega
  have ho : op.getLsbD (16 + i) = false := BitVec.getLsbD_of_ge _ _ (by omega)
  simp [hi, h24, e, ho]

@[simp] theorem address_callWord (v : Byte) (addr : Addr7) (op : BitVec 4) :
    (callWord v (addr.setWidth 8) op).extractLsb' 8 7 = addr := by
  have h : (callWord v (addr.setWidth 8) op).extractLsb' 8 7 =
      (argOf (callWord v (addr.setWidth 8) op)).extractLsb' 0 7 := by
    ext i hi
    have : i < 8 := by omega
    simp [argOf, this]
  rw [h, argOf_callWord]
  ext i hi
  have : i < 8 := by omega
  simp [this, hi]

@[simp] theorem addressBit7_zero (addr : Addr7) : (addr.setWidth 8 : Byte).getLsbD 7 = false := by
  simp

end Sys2Proof
end

