-- ==== Sys2Proof/Laws/PerInstr.lean ====
section
/-! SUPPORT. Statements made once per input kind. Family `Port`: the encoder puts every input on the port it arrives on (R64, R75). -/

namespace Sys2Proof.Laws.Port

/-- The word of an input belongs to the port of that input, whatever the event codes. -/
def Statement (i : Instr) : Prop := ∀ codes, (encode codes i).isBus = i.isBusEvent

theorem srAddr : Statement .srAddr := fun _ => rfl

theorem srDataAck (b : Byte) : Statement (.srDataAck b) := fun _ => rfl

theorem srDataNack (b : Byte) : Statement (.srDataNack b) := fun _ => rfl

theorem srStop : Statement .srStop := fun _ => rfl

theorem stAddr : Statement .stAddr := fun _ => rfl

theorem stDataAck : Statement .stDataAck := fun _ => rfl

theorem stDataNack : Statement .stDataNack := fun _ => rfl

theorem stLastData : Statement .stLastData := fun _ => rfl

theorem noInfo : Statement .noInfo := fun _ => rfl

theorem busError : Statement .busError := fun _ => rfl

theorem other (status : BitVec 5) : Statement (.other status) := fun _ => rfl

theorem snapshot : Statement .snapshot := fun _ => rfl

theorem commit : Statement .commit := fun _ => rfl

theorem uread (k : Byte) : Statement (.uread k) := fun _ => rfl

theorem uwrite (k v : Byte) : Statement (.uwrite k v) := fun _ => rfl

theorem init (addr : Addr7) : Statement (.init addr) := fun _ => rfl

end Sys2Proof.Laws.Port
end

