-- ==== Sys2Proof/Laws/Step.lean ====
section
/-! SUPPORT. What one step can do, said once: where the input comes from, and that its meaning is `exec`'s. -/

namespace Sys2Proof.Machine

/-- An input that runs comes from the head of one port; the other port is as before (R17, R135). -/
theorem fetch_run {s u : State} {i : Instr} (h : fetch s = .run i u) :
    (∃ x xs, s.initDone = true ∧ s.busPort = x :: xs ∧ busInstr s x = some i ∧ u = s.takeBus xs) ∨
      (∃ w ws, s.callPort = w :: ws ∧ decodeCall w = .ok i ∧ u = s.takeCall ws) := by
  have hb : ∀ x xs, s.initDone = true → s.busPort = x :: xs → fetchBus s x xs = .run i u →
      (∃ x xs, s.initDone = true ∧ s.busPort = x :: xs ∧ busInstr s x = some i ∧ u = s.takeBus xs) := by
    intro x xs hi hp hf
    unfold fetchBus at hf
    split at hf
    · rename_i j hj; cases hf; exact ⟨x, xs, hi, hp, hj, rfl⟩
    · cases hf
  have hc : ∀ w ws, s.callPort = w :: ws → fetchCall s w ws = .run i u →
      (∃ w ws, s.callPort = w :: ws ∧ decodeCall w = .ok i ∧ u = s.takeCall ws) := by
    intro w ws hp hf
    unfold fetchCall at hf
    split at hf
    · rename_i j hj; cases hf; exact ⟨w, ws, hp, hj, rfl⟩
    · cases hf
  unfold fetch at h
  split at h
  · rename_i hi hp _; exact .inl (hb _ _ hi hp h)
  · rename_i hi hp hq
    split at h
    · exact .inl (hb _ _ hi hp h)
    · exact .inr (hc _ _ hq h)
  · rename_i hq; exact .inr (hc _ _ hq h)
  · rename_i hq; exact .inr (hc _ _ hq h)
  · cases h
  · cases h

/-- A bus input that delivers no event is taken from the port and does nothing else (R82). -/
theorem fetch_ignored {s u : State} (h : fetch s = .ignored u) : ∃ xs, u = s.takeBus xs := by
  have hb : ∀ x xs, fetchBus s x xs = .ignored u → ∃ xs, u = s.takeBus xs := by
    intro x xs hf
    unfold fetchBus at hf
    split at hf
    · cases hf
    · cases hf; exact ⟨xs, rfl⟩
  have hc : ∀ w ws, fetchCall s w ws ≠ .ignored u := by
    intro w ws hf
    unfold fetchCall at hf
    split at hf <;> cases hf
  unfold fetch at h
  split at h
  · exact hb _ _ h
  · split at h
    · exact hb _ _ h
    · exact absurd h (hc _ _)
  · exact absurd h (hc _ _)
  · exact absurd h (hc _ _)
  · cases h
  · cases h

/-- Every way a step answers a next state. -/
theorem step_next {s t : State} (h : step s = .next t) :
    s.faults = [] ∧ ((∃ xs, t = s.takeBus xs) ∨
      ∃ i u, exec i u = .next t ∧ ((∃ xs, u = s.takeBus xs) ∨ ∃ ws, u = s.takeCall ws)) := by
  obtain ⟨hf, h⟩ := whenNoFault_next.1 h
  refine ⟨hf, ?_⟩
  split at h
  · cases h
  · cases h
  · rename_i u hu
    cases h
    exact .inl (fetch_ignored hu)
  · rename_i i u hu
    refine .inr ⟨i, u, h, ?_⟩
    rcases fetch_run hu with ⟨x, xs, -, -, -, hu⟩ | ⟨w, ws, -, -, hu⟩
    · exact .inl ⟨xs, hu⟩
    · exact .inr ⟨ws, hu⟩

/-- Running a sequence one input at a time. -/
theorem execAll_cons {i : Instr} {is : List Instr} {s t : State} (h : exec i s = .next t) :
    execAll (i :: is) s = execAll is t := by simp [execAll, h]

/-- Running a sequence in two parts. -/
theorem execAll_append {l₁ l₂ : List Instr} {s t : State} (h : execAll l₁ s = .next t) :
    execAll (l₁ ++ l₂) s = execAll l₂ t := by
  induction l₁ generalizing s with
  | nil => simp only [execAll, Host.Outcome.next.injEq] at h; subst h; rfl
  | cons i is ih =>
    rw [List.cons_append]
    simp only [execAll] at h ⊢
    split at h
    · exact ih h
    · cases h
    · cases h

/-- The first input of a sequence that reaches a state was given a next state, and the rest reached it from there. -/
theorem execAll_cons_next {i : Instr} {is : List Instr} {s t : State} (h : execAll (i :: is) s = .next t) :
    ∃ u, exec i s = .next u ∧ execAll is u = .next t := by
  simp only [execAll] at h
  split at h
  · rename_i u hu; exact ⟨u, hu, h⟩
  · cases h
  · cases h

end Sys2Proof.Machine
end

