-- ==== Sys2Proof/Machine/TraceSyntax.lean ====
section
/-! DEFINITION. The trace syntax (R76): how an input and an output are written, and how an input line is read. It has no
part in a step. -/

namespace Sys2Proof.Machine

/-- One hexadecimal digit. -/
def hexDigit (n : Nat) : String :=
  ["0", "1", "2", "3", "4", "5", "6", "7", "8", "9", "A", "B", "C", "D", "E", "F"].getD n "?"

/-- A number below 256 in hexadecimal with `0x`. -/
def hexByte (n : Nat) : String := "0x" ++ hexDigit (n / 16) ++ hexDigit (n % 16)

/-- One input as a trace line (R76). -/
def inputLine : Instr → String
  | .srAddr => "ev SR_ADDR"
  | .srDataAck b => "ev SR_DATA_ACK " ++ hexByte b.toNat
  | .srDataNack b => "ev SR_DATA_NACK " ++ hexByte b.toNat
  | .srStop => "ev SR_STOP"
  | .stAddr => "ev ST_ADDR"
  | .stDataAck => "ev ST_DATA_ACK"
  | .stDataNack => "ev ST_DATA_NACK"
  | .stLastData => "ev ST_LAST_DATA"
  | .noInfo => "ev NO_INFO"
  | .busError => "ev BUS_ERROR"
  | .other _ => "ev OTHER"
  | .snapshot => "app SNAPSHOT"
  | .commit => "app COMMIT"
  | .uread i => "app UREAD " ++ toString i.toNat
  | .uwrite i v => "app UWRITE " ++ toString i.toNat ++ ", " ++ hexByte v.toNat
  | .init addr => "host INIT " ++ hexByte addr.toNat

/-- One output as a trace line (R76). -/
def outputLine : Output → String
  | .delay n => "=> Delay(" ++ toString n ++ ")"
  | .txByte b => "=> TxByte(" ++ hexByte b.toNat ++ ")"
  | .ackNext => "=> AckNext"
  | .refuseNext => "=> RefuseNext"
  | .recoverBusError => "=> RecoverBusError"

/-- A line may end with `; <comment>` (R76). -/
def dropComment (line : List Char) : List Char := line.takeWhile (fun c => c != ';')

/-- The words of a line, separated by blanks and commas; `cur` holds the word being read, last character first. -/
def wordsFrom (cur : List Char) : List Char → List (List Char)
  | [] => if cur.isEmpty then [] else [cur.reverse]
  | c :: cs =>
    if c == ' ' || c == ',' then
      (if cur.isEmpty then wordsFrom [] cs else cur.reverse :: wordsFrom [] cs)
    else wordsFrom (c :: cur) cs

/-- The value of one digit, decimal or hexadecimal. -/
def digitValue (c : Char) : Nat :=
  if '0'.toNat ≤ c.toNat && c.toNat ≤ '9'.toNat then c.toNat - '0'.toNat
  else if 'A'.toNat ≤ c.toNat && c.toNat ≤ 'F'.toNat then c.toNat - 'A'.toNat + 10
  else if 'a'.toNat ≤ c.toNat && c.toNat ≤ 'f'.toNat then c.toNat - 'a'.toNat + 10
  else 16

/-- The value of a row of digits of one base, after the value `acc` of the digits before. -/
def digitsFrom (base acc : Nat) : List Char → Option Nat
  | [] => some acc
  | c :: cs => if digitValue c < base then digitsFrom base (base * acc + digitValue c) cs else none

/-- "Numbers are hexadecimal with `0x` or decimal" (R76). -/
def numberOf : List Char → Option Nat
  | '0' :: 'x' :: d :: ds => digitsFrom 16 0 (d :: ds)
  | d :: ds => digitsFrom 10 0 (d :: ds)
  | [] => none

/-- A number that fits in a byte. -/
def byteOf (cs : List Char) : Option Byte :=
  match numberOf cs with
  | some n => if n < 256 then some (BitVec.ofNat 8 n) else none
  | none => none

/-- A number that fits in 7 bits. -/
def addressOf (cs : List Char) : Option Addr7 :=
  match numberOf cs with
  | some n => if n < 128 then some (BitVec.ofNat 7 n) else none
  | none => none

/-- An event or call without operand, by the two words of its line. -/
def plainInput (port name : List Char) : Option Instr :=
  [.srAddr, .srStop, .stAddr, .stDataAck, .stDataNack, .stLastData, .noInfo, .busError, .snapshot, .commit].find?
    (fun i => wordsFrom [] (inputLine i).toList == [port, name])

/-- One input line (R76). An `ev OTHER` line names no status and a status is what the event is (R95), so it is no line that
says which word arrived: none. -/
def readLine (line : List Char) : Option Instr :=
  match wordsFrom [] (dropComment line) with
  | [port, name] => plainInput port name
  | [port, name, x] =>
    if port == "ev".toList && name == "SR_DATA_ACK".toList then (byteOf x).map .srDataAck
    else if port == "ev".toList && name == "SR_DATA_NACK".toList then (byteOf x).map .srDataNack
    else if port == "app".toList && name == "UREAD".toList then (byteOf x).map .uread
    else if port == "host".toList && name == "INIT".toList then (addressOf x).map .init
    else none
  | [port, name, x, y] =>
    if port == "app".toList && name == "UWRITE".toList then
      match byteOf x, byteOf y with
      | some i, some v => some (.uwrite i v)
      | _, _ => none
    else none
  | _ => none

end Sys2Proof.Machine
end

