-- ==== Sys2Proof/Tests/Slice0.lean ====
section
/-! SUPPORT. Tests with expected results from the spec's vectors (`spec/95_test_vectors.md`, named E, A, B, S, C, U, H and L
there), the smoke test of `WellFormed`, and for every obligation with hypotheses a state and operands that meet them. -/

open Sys2Proof Sys2Proof.Machine Sys2Proof.Claims

namespace Sys2Proof.Tests

/-! ### A small machine -/

/-- A buffer from its bytes. -/
def buf (l : List Byte) : Memory := Memory.ofFn (fun p => l.getD p 0) l.length

/-- N = 8, CAP = 16, `DELAY_US` = 7, the default event codes. -/
def rigConfig : Config := { size := 8, cap := 16, delayUs := 7, eventCodes := EventCodes.default, ackAfterBusError := true }

/-- An initialised block with `staging` = [1,2,3,4,5,6,7,8]. -/
def rig : State where
  cfg := rigConfig
  txState := .idle
  offset := 0
  offsetValid := true
  pendingWrites := []
  pendingCount := 0
  staging := buf [1, 2, 3, 4, 5, 6, 7, 8]
  transactionReadBuffer := buf [0xAA, 0xBB, 3, 4, 5, 6, 7, 8]
  userBuffer := buf [1, 2, 3, 4, 5, 6, 7, 8]
  userBufferSnapshot := buf [1, 2, 3, 4, 5, 6, 7, 8]
  appTurn := .opened
  busTouched := []
  initDone := true
  ownAddr := 0x14
  outTrace := []
  faults := []
  appResults := []
  busPort := []
  callPort := []
  choices := 0

/-- `rig` in a transaction state, at an offset, with a pending batch. -/
def rigTx (tx : TxState) (offset : Nat) (batch : List Byte) : State :=
  { rig with txState := tx, offset := offset, pendingWrites := buf batch, pendingCount := batch.length }

/-- `rig` with a turn state, an application buffer and touched positions. -/
def rigApp (turn : AppTurn) (user : List Byte) (marks : List Nat) : State :=
  { rig with appTurn := turn, userBuffer := buf user, busTouched := marks }

/-- `rig` before `INIT`. -/
def fresh : State := { rig with initDone := false, offsetValid := false, appTurn := .noTurn }

/-- The next state, if there is one. -/
def after : Host.Outcome State Fault Refusal → Option State
  | .next s => some s
  | .fault _ => none
  | .refused _ => none

/-- The refusal, if there is one. -/
def refusal : Host.Outcome State Fault Refusal → Option Refusal
  | .next _ => none
  | .fault _ => none
  | .refused r => some r

/-- The stop, if there is one. -/
def stop : Host.Outcome State Fault Refusal → Option Fault
  | .next _ => none
  | .fault r => some r
  | .refused _ => none

/-- The bytes of the first `n` positions. -/
def bytes (n : Nat) (m : Memory) : List Byte := (List.range n).map m.read

/-! ### WellFormed -/

/-- R67: a listed status is no `OTHER`. -/
theorem test_wf_other_listed : Instr.wf EventCodes.default (.other 0b01100) = false := by decide

theorem test_wf_other_unlisted : Instr.wf EventCodes.default (.other 0b01110) = true := by decide

/-- R68: equal codes. -/
theorem test_wf_codes_equal : EventCodes.wf { EventCodes.default with srStop := 0x60 } = false := by decide

/-- R68: a code that is no multiple of 8. -/
theorem test_wf_codes_low_bits : EventCodes.wf { EventCodes.default with srStop := 0xA1 } = false := by decide

/-- R6: the ends of the ranges, and a value beyond each. -/
theorem test_wf_config :
    (Config.wf { rigConfig with size := 1, cap := 1 } && Config.wf { rigConfig with size := 256 } &&
      !Config.wf { rigConfig with size := 0 } && !Config.wf { rigConfig with size := 257 } &&
      !Config.wf { rigConfig with cap := 0 }) = true := by decide

/-! ### Decoding: a word for every row (E1–E18) -/

theorem test_decode_srAddr : decodeTableWord 16 0x0060 = some .srAddr ∧ decodeTableWord 16 0x0067 = some .srAddr := by
  decide

theorem test_decode_srDataAck :
    decodeTableWord 16 0x0580 = some (.srDataAck 0x05) ∧ decodeTableWord 16 0x0087 = some (.srDataAck 0x00) := by decide

theorem test_decode_srDataNack : decodeTableWord 16 0x2288 = some (.srDataNack 0x22) := by decide

theorem test_decode_srStop : decodeTableWord 16 0x00A0 = some .srStop := by decide

theorem test_decode_stAddr : decodeTableWord 16 0x00A8 = some .stAddr := by decide

theorem test_decode_stDataAck : decodeTableWord 16 0x00B8 = some .stDataAck := by decide

theorem test_decode_stDataNack : decodeTableWord 16 0x00C0 = some .stDataNack := by decide

theorem test_decode_stLastData : decodeTableWord 16 0x00C8 = some .stLastData := by decide

theorem test_decode_noInfo : decodeTableWord 16 0x00F8 = some .noInfo ∧ decodeTableWord 16 0x00F9 = some .noInfo := by
  decide

theorem test_decode_busError : decodeTableWord 16 0x0000 = some .busError := by decide

theorem test_decode_other :
    decodeTableWord 16 0x0070 = some (.other 0b01110) ∧ decodeTableWord 16 0x0008 = some (.other 0b00001) ∧
      decodeTableWord 16 0x0068 = some (.other 0b01101) ∧ decodeTableWord 16 0x00B0 = some (.other 0b10110) := by decide

theorem test_decode_snapshot : decodeTableWord 24 0x000000 = some .snapshot := by decide

theorem test_decode_commit : decodeTableWord 24 0x000001 = some .commit := by decide

theorem test_decode_uread : decodeTableWord 24 0x000102 = some (.uread 1) := by decide

theorem test_decode_uwrite : decodeTableWord 24 0x770203 = some (.uwrite 2 0x77) := by decide

theorem test_decode_init : decodeTableWord 24 0x001408 = some (.init 0x14) := by decide

/-- E14–E18. -/
theorem test_decode_reserved :
    [0x000004, 0x00000F, 0x000010, 0x010000, 0x000100, 0x050102, 0x009408].map (decodeTableWord 24) =
      [none, none, none, none, none, none, none] := by decide

/-! ### Bus events -/

/-- B1. -/
theorem test_srAddr_snapshots :
    (after (exec .srAddr rig)).map (fun t => (t.txState, bytes 8 t.transactionReadBuffer, t.outTrace)) =
      some (.awaitingOffset, [1, 2, 3, 4, 5, 6, 7, 8], [.delay 7, .ackNext]) := by decide

/-- B2: the batch is kept. -/
theorem test_srAddr_keeps_batch :
    (after (exec .srAddr (rigTx .active 1 [0xAA, 0xBB]))).map (fun t => (t.pendingCount, bytes 2 t.pendingWrites)) =
      some (2, [0xAA, 0xBB]) := by decide

/-- B4: no fault at receive. -/
theorem test_srDataAck_offset :
    (after (exec (.srDataAck 0xFF) (rigTx .awaitingOffset 0 []))).map (fun t => (t.txState, t.offset, t.faults)) =
      some (.active, 255, []) := by decide

/-- B6: the byte that finds the batch full is the first of the new one. -/
theorem test_srDataAck_full :
    (after (exec (.srDataAck 0x99) (rigTx .active 0 (List.replicate 16 1)))).map
      (fun t => (t.pendingCount, t.pendingWrites.read 0)) = some (1, 0x99) := by decide

/-- B9. -/
theorem test_srDataNack : after (exec (.srDataNack 0x22) (rigTx .active 5 [1])) =
    some { rigTx .active 5 [1] with outTrace := [.ackNext] } := by decide

/-- B10, B14: the last byte lands at N-1. -/
theorem test_srStop_applies :
    (after (exec .srStop (rigTx .active 5 [0x11, 0x22, 0x33]))).map
      (fun t => (t.txState, t.offset, t.pendingCount, bytes 8 t.staging, t.busTouched)) =
      some (.idle, 5, 0, [1, 2, 3, 4, 5, 0x11, 0x22, 0x33], [5, 6, 7]) := by decide

/-- B13. -/
theorem test_srStop_past_the_end : after (exec .srStop (rigTx .active 6 [1, 2, 3])) =
    some { rigTx .active 6 [1, 2, 3] with outTrace := [.delay 7], faults := [.writeOob 6 3] } := by decide

/-- B16. -/
theorem test_stAddr : after (exec .stAddr rig) =
    some { rig with offset := 1, outTrace := [.delay 7, .txByte 0xAA, .ackNext] } := by decide

/-- B20. -/
theorem test_stAddr_no_offset : after (exec .stAddr { rig with offsetValid := false, offset := 200 }) =
    some { rig with offsetValid := false, offset := 200, outTrace := [.delay 7], faults := [.readNoOffset] } := by decide

/-- B17: the last byte, after which the offset is N. -/
theorem test_stDataAck : after (exec .stDataAck (rigTx .idle 7 [])) =
    some { rigTx .idle 8 [] with outTrace := [.delay 7, .txByte 8, .ackNext] } := by decide

/-- B18. -/
theorem test_stDataAck_past_the_end : after (exec .stDataAck (rigTx .idle 8 [])) =
    some { rigTx .idle 8 [] with outTrace := [.delay 7], faults := [.readOob 8] } := by decide

/-- B21. -/
theorem test_stDataNack : after (exec .stDataNack (rigTx .idle 3 [])) =
    some { rigTx .idle 3 [] with outTrace := [.ackNext] } := by decide

/-- B22. -/
theorem test_stLastData : after (exec .stLastData (rigTx .active 3 [9])) =
    some { rigTx .active 3 [9] with outTrace := [.ackNext] } := by decide

/-- B23. -/
theorem test_noInfo : after (exec .noInfo (rigTx .active 3 [9])) =
    some { rigTx .active 3 [9] with outTrace := [.ackNext] } := by decide

/-- B24. -/
theorem test_busError : after (exec .busError (rigTx .active 1 [0xAA, 0xBB])) =
    some { rigTx .active 1 [0xAA, 0xBB] with outTrace := [.recoverBusError, .ackNext] } := by decide

/-- B25. -/
theorem test_busError_silent :
    (after (exec .busError { rig with cfg := { rigConfig with ackAfterBusError := false } })).map (·.outTrace) =
      some [.recoverBusError] := by decide

/-- B26. -/
theorem test_other : after (exec (.other 0b01110) (rigTx .active 3 [9])) =
    some { rigTx .active 3 [9] with outTrace := [.ackNext] } := by decide

/-! ### Calls -/

/-- S2: the application's write is discarded. -/
theorem test_snapshot :
    (after (exec .snapshot (rigApp .opened [1, 7, 3, 4, 5, 6, 7, 8] [0]))).map
      (fun t => (bytes 8 t.userBuffer, bytes 8 t.userBufferSnapshot, t.busTouched, t.appTurn)) =
      some ([1, 2, 3, 4, 5, 6, 7, 8], [1, 2, 3, 4, 5, 6, 7, 8], [], .opened) := by decide

/-- C1. -/
theorem test_commit :
    (after (exec .commit { rigApp .opened [1, 7, 3, 4, 5, 6, 7, 8] [0] with staging := buf [5, 2, 3, 4, 5, 6, 7, 8] })).map
      (fun t => (bytes 8 t.staging, t.appTurn)) = some ([5, 7, 3, 4, 5, 6, 7, 8], .closed) := by decide

/-- C4. -/
theorem test_commit_conflict : after (exec .commit (rigApp .opened [1, 2, 9, 9, 5, 6, 7, 8] [3])) =
    some { rigApp .opened [1, 2, 9, 9, 5, 6, 7, 8] [3] with faults := [.conflict 3] } := by decide

/-- U1. -/
theorem test_uread : after (exec (.uread 1) (rigApp .opened [1, 7, 3, 4, 5, 6, 7, 8] [])) =
    some { rigApp .opened [1, 7, 3, 4, 5, 6, 7, 8] [] with appResults := [0x07] } := by decide

/-- U3: the index N. -/
theorem test_uread_index : (after (exec (.uread 8) rig)).map (·.faults) = some [.appIndex 8] := by decide

/-- U6. -/
theorem test_uwrite :
    (after (exec (.uwrite 1 0x07) rig)).map (fun t => (bytes 8 t.userBuffer, bytes 8 t.staging)) =
      some ([1, 7, 3, 4, 5, 6, 7, 8], [1, 2, 3, 4, 5, 6, 7, 8]) := by decide

/-- U5: the turn is checked before the index. -/
theorem test_uwrite_no_turn : (after (exec (.uwrite 50 0x01) fresh)).map (·.faults) =
    some [.appNoTurn (.uwrite 50 0x01)] := by decide

/-- H1, H2. -/
theorem test_init :
    (after (exec (.init 0x14) fresh)).map (fun t => (t.ownAddr, t.initDone)) = some (0x14, true) ∧
      (after (exec (.init 0x08) fresh)).map (·.ownAddr) = some 0x08 ∧
      (after (exec (.init 0x77) fresh)).map (·.ownAddr) = some 0x77 := by decide

/-- H3, H5. -/
theorem test_init_faults :
    (after (exec (.init 0x07) fresh)).map (·.faults) = some [.badAddress 0x07] ∧
      (after (exec (.init 0x78) fresh)).map (·.faults) = some [.badAddress 0x78] ∧
      (after (exec (.init 0x00) rig)).map (fun t => (t.faults, t.ownAddr)) = some ([.doubleInit 0x00], 0x14) := by decide

/-! ### Steps -/

/-- B27, B28. -/
theorem test_no_step :
    refusal (exec .srAddr fresh) = some .busDisabled ∧
      stop (exec .snapshot { rig with faults := [.readNoOffset] }) = some (.halted .readNoOffset) := by decide

/-- A1–A4: `ownAddr` = 0x14. -/
theorem test_address_matching :
    [0x28, 0x29, 0x2A, 0x2B, 0x00].map (matchAddress 0x14) = [some .srAddr, some .stAddr, none, none, none] := by decide

/-- A word placed after reset is the next step's input, on either port. -/
theorem test_withFetchWord :
    (after (step (State.reset.withFetchWord 16 0x0060))).map (·.txState) = some .awaitingOffset ∧
      (after (step (State.reset.withFetchWord 24 0x001408))).map (fun t => (t.ownAddr, t.initDone)) =
        some (0x14, true) := by decide

/-- R76. -/
theorem test_trace_syntax :
    readLine "ev SR_DATA_ACK 0x05 ; the offset".toList = some (.srDataAck 0x05) ∧
      readLine "app UWRITE 2, 0x77".toList = some (.uwrite 2 0x77) ∧
      readLine (inputLine (.init 0x14)).toList = some (.init 0x14) ∧
      outputLine (.txByte 0xAA) = "=> TxByte(0xAA)" := by decide

/-! ### Witnesses: every obligation's hypotheses are met -/

theorem rig_enabled : Enabled rig := ⟨rfl, rfl⟩

theorem rig_inv : rig.Inv := by constructor <;> decide

theorem rigTx_enabled (tx : TxState) (o : Nat) (b : List Byte) : Enabled (rigTx tx o b) := ⟨rfl, rfl⟩

/-- A full batch, one byte short of full, and an empty one. -/
theorem batch_inv :
    (rigTx .active 0 (List.replicate 16 1)).Inv ∧ (rigTx .active 0 (List.replicate 15 1)).Inv ∧
      (rigTx .active 0 []).Inv := by
  refine ⟨?_, ?_, ?_⟩ <;> constructor <;> decide

/-- Batches that end at N-1 and one byte past it. -/
theorem stop_inv :
    (rigTx .active 5 [1, 2, 3]).Inv ∧ (rigTx .active 6 [1, 2, 3]).Inv ∧ (rigTx .idle 5 []).Inv := by
  refine ⟨?_, ?_, ?_⟩ <;> constructor <;> decide

theorem witness_StepRunsTheDecodedInput :
    (∃ s : State, ∃ w xs, s.faults = [] ∧ s.initDone = true ∧ s.busPort = .event w :: xs ∧ s.callPort = []) ∧
    (∃ s : State, ∃ w ws i, s.faults = [] ∧ s.initDone = false ∧ s.busPort ≠ [] ∧ s.callPort = w :: ws ∧
      decodeCall w = .ok i) ∧
    (∃ s : State, ∃ w ws i, s.faults = [] ∧ s.initDone = true ∧ s.busPort = [] ∧ s.callPort = w :: ws ∧ decodeCall w = .ok i) ∧
    (∃ s : State, ∃ b xs w ws i, s.faults = [] ∧ s.initDone = true ∧ s.busPort = .event b :: xs ∧ s.callPort = w :: ws ∧
      decodeCall w = .ok i) :=
  ⟨⟨{ rig with busPort := [.event 0x0060] }, 0x0060, [], rfl, rfl, rfl, rfl⟩,
   ⟨{ fresh with busPort := [.event 0x0060], callPort := [0x001408] }, 0x001408, [], .init 0x14, rfl, rfl, by decide,
     rfl, rfl⟩,
   ⟨{ rig with callPort := [0x000000] }, 0x000000, [], .snapshot, rfl, rfl, rfl, rfl, rfl⟩,
   ⟨{ rig with busPort := [.event 0x0060], callPort := [0x000001] }, 0x0060, [], 0x000001, [], .commit, rfl, rfl, rfl,
     rfl, rfl⟩⟩

/-- A word for every row, and the smallest and the largest unlisted status of the default codes. -/
theorem witness_BusDecoderSelectsTheRowOfTheStatus :
    EventCodes.default.wf = true ∧
    (0x0060#16).extractLsb' 0 8 &&& 0xF8#8 = EventCodes.default.srAddr ∧
    (0x0087#16).extractLsb' 0 8 &&& 0xF8#8 = EventCodes.default.srDataAck ∧
    (0x2288#16).extractLsb' 0 8 &&& 0xF8#8 = EventCodes.default.srDataNack ∧
    (0x00A0#16).extractLsb' 0 8 &&& 0xF8#8 = EventCodes.default.srStop ∧
    (0x00A8#16).extractLsb' 0 8 &&& 0xF8#8 = EventCodes.default.stAddr ∧
    (0x00B8#16).extractLsb' 0 8 &&& 0xF8#8 = EventCodes.default.stDataAck ∧
    (0x00C0#16).extractLsb' 0 8 &&& 0xF8#8 = EventCodes.default.stDataNack ∧
    (0x00C8#16).extractLsb' 0 8 &&& 0xF8#8 = EventCodes.default.stLastData ∧
    (0xFFFF#16).extractLsb' 0 8 &&& 0xF8#8 = EventCodes.default.noInfo ∧
    (0x0007#16).extractLsb' 0 8 &&& 0xF8#8 = EventCodes.default.busError ∧
    (0x0008#16).extractLsb' 0 8 &&& 0xF8#8 ∉ EventCodes.default.toList ∧
    (0x00F0#16).extractLsb' 0 8 &&& 0xF8#8 ∉ EventCodes.default.toList := by decide

theorem witness_IgnoredBitsOfABusWordChangeNothing :
    (∃ w w' : BusWord, w ≠ w' ∧ w.extractLsb' 3 5 = w'.extractLsb' 3 5 ∧ w.extractLsb' 8 8 = w'.extractLsb' 8 8) ∧
    (∃ w w' : BusWord, w ≠ w' ∧ w.extractLsb' 3 5 = w'.extractLsb' 3 5 ∧
      (∀ b, decodeBus EventCodes.default w ≠ .srDataAck b) ∧ ∀ b, decodeBus EventCodes.default w ≠ .srDataNack b) := by
  have h : decodeBus EventCodes.default 0x05A0 = .srStop := by decide
  exact ⟨⟨0x0580, 0x0587, by decide, by decide, by decide⟩,
    ⟨0x05A0, 0x00A7, by decide, by decide, fun b e => by rw [h] at e; exact Instr.noConfusion e,
      fun b e => by rw [h] at e; exact Instr.noConfusion e⟩⟩

/-- A reserved word while a bus input waits: an event, an address byte that matches, one that does not. -/
theorem witness_ReservedCallWordsAreRefused_busWaits :
    [BusInput.event 0x0060, .address 0x28, .address 0x2A].all (fun x =>
      let s := { rig with busPort := [x], callPort := [0x000004] }
      decide (s.faults = [] ∧ s.initDone = true ∧ s.busPort = [x] ∧ s.callPort = [0x000004])) = true ∧
    decodeCall 0x000004 = .error .reservedOp ∧
    [BusInput.event 0x0060, .address 0x28, .address 0x2A].map (busInstr rig) = [some .srAddr, some .srAddr, none] :=
  ⟨by decide, rfl, by decide⟩

/-- A reserved word of every kind, at the ends of the reserved ranges of `op`, with and without `INIT`. -/
theorem witness_ReservedCallWordsAreRefused :
    [0x000004, 0x000007, 0x000009, 0x00000F, 0x000010, 0x000100, 0x010000, 0x000101, 0x050102, 0x009408, 0x011408].all
      (fun w => [rig, fresh].all fun s =>
        (match decodeCall w with | .ok _ => false | .error _ => true) &&
          decide ({ s with callPort := [w] }.faults = [] ∧ { s with callPort := [w] }.busPort = [])) = true := by decide

theorem witness_DecodeOfEncodeIsTheInput :
    EventCodes.default.wf = true ∧
    [.srAddr, .srDataAck 0xFF, .srDataNack 0, .srStop, .stAddr, .stDataAck, .stDataNack, .stLastData, .noInfo, .busError,
      .other 1, .other 30, .snapshot, .commit, .uread 255, .uwrite 255 0, .init 127].all
        (Instr.wf EventCodes.default) = true := by decide

theorem witness_OnlyAddressedForWriteCopiesStaging :
    Enabled rig ∧ ∃ i s t, i ≠ .srAddr ∧ exec i s = .next t :=
  ⟨rig_enabled, .srStop, rig, _, by decide, rfl⟩

theorem witness_FirstReceivedByteIsTheOffset :
    Enabled (rigTx .awaitingOffset 0 []) ∧ (rigTx .awaitingOffset 0 []).txState = .awaitingOffset :=
  ⟨rigTx_enabled _ _ _, rfl⟩

/-- Both clauses: the batch full, and one short of full. -/
theorem witness_DataByteIsAppendedToTheBatch :
    (∃ s : State, s.Inv ∧ Enabled s ∧ s.txState = .active ∧ s.pendingCount = s.cfg.cap) ∧
    (∃ s : State, s.Inv ∧ Enabled s ∧ s.txState = .active ∧ s.pendingCount + 1 = s.cfg.cap) :=
  ⟨⟨_, batch_inv.1, rigTx_enabled _ _ _, rfl, rfl⟩, ⟨_, batch_inv.2.1, rigTx_enabled _ _ _, rfl, rfl⟩⟩

theorem witness_DataByteInIdleRaisesRxIdle : Enabled rig ∧ rig.txState = .idle := ⟨rig_enabled, rfl⟩

/-- The last byte of the record, no offset, and the first position past the record. -/
theorem witness_RequestedByteComesFromTheReadBuffer :
    .stAddr ∈ requests ∧ .stDataAck ∈ requests ∧
    (Enabled (rigTx .idle 7 []) ∧ (rigTx .idle 7 []).offsetValid = true ∧ (rigTx .idle 7 []).offset + 1 = rig.cfg.size) ∧
    (Enabled { rig with offsetValid := false }) ∧
    (Enabled (rigTx .idle 8 []) ∧ (rigTx .idle 8 []).offsetValid = true ∧ (rigTx .idle 8 []).offset = rig.cfg.size) :=
  ⟨by decide, by decide, ⟨rigTx_enabled _ _ _, rfl, rfl⟩, ⟨rfl, rfl⟩, ⟨rigTx_enabled _ _ _, rfl, rfl⟩⟩

/-- Nothing pending, a batch that ends at N-1, a batch one byte longer; a turn open and not. -/
theorem witness_StopAppliesTheBatchAtTheOffset :
    (∃ s : State, s.Inv ∧ Enabled s ∧ s.pendingCount = 0) ∧
    (∃ s : State, s.Inv ∧ Enabled s ∧ 0 < s.pendingCount ∧ s.offset + s.pendingCount = s.cfg.size ∧
      s.appTurn = .opened) ∧
    (∃ s : State, s.Inv ∧ Enabled s ∧ 0 < s.pendingCount ∧ s.offset + s.pendingCount = s.cfg.size ∧
      s.appTurn ≠ .opened) ∧
    (∃ s : State, s.Inv ∧ Enabled s ∧ 0 < s.pendingCount ∧ s.cfg.size + 1 = s.offset + s.pendingCount) :=
  ⟨⟨_, stop_inv.2.2, rigTx_enabled _ _ _, rfl⟩, ⟨_, stop_inv.1, rigTx_enabled _ _ _, by decide, rfl, rfl⟩,
   ⟨{ rigTx .active 5 [1, 2, 3] with appTurn := .closed }, by constructor <;> decide, ⟨rfl, rfl⟩, by decide, rfl,
     by decide⟩,
   ⟨_, stop_inv.2.1, rigTx_enabled _ _ _, by decide, rfl⟩⟩

theorem witness_UnusedEventsAreOnlyAcknowledged : Enabled (rigTx .active 3 [9]) := rigTx_enabled _ _ _

theorem witness_BusErrorOnlyRecoversTheBus :
    (Enabled rig ∧ rig.cfg.ackAfterBusError = true) ∧
    ∃ s, Enabled s ∧ s.cfg.ackAfterBusError = false :=
  ⟨⟨rig_enabled, rfl⟩, { rig with cfg := { rigConfig with ackAfterBusError := false } }, ⟨rfl, rfl⟩, rfl⟩

/-- An event of each shape: with a callback, transmitting, neither, and the bus error with and without its acknowledge. -/
theorem witness_EventOutputsAreInOrder :
    (∃ t, exec .srAddr rig = .next t ∧ t.faults = []) ∧ (∃ t, exec .stAddr rig = .next t ∧ t.faults = []) ∧
    (∃ t, exec .noInfo rig = .next t ∧ t.faults = []) ∧ (∃ t, exec .busError rig = .next t ∧ t.faults = []) ∧
    (∃ s t : State, s.cfg.ackAfterBusError = false ∧ exec .busError s = .next t ∧ t.faults = []) :=
  ⟨⟨_, rfl, rfl⟩, ⟨_, rfl, rfl⟩, ⟨_, rfl, rfl⟩, ⟨_, rfl, rfl⟩,
    { rig with cfg := { rigConfig with ackAfterBusError := false } }, _, rfl, rfl, rfl⟩

theorem witness_RefuseNextIsNeverEmitted : ∃ t, exec .srAddr rig = .next t := ⟨_, rfl⟩

theorem witness_NoBusEventBeforeInit :
    fresh.faults = [] ∧ fresh.initDone = false ∧ fresh.callPort = [] ∧ Instr.srAddr.isBusEvent = true := by decide

/-- The block's own address, in both directions. -/
theorem witness_MatchingAddressByteDeliversItsEvent :
    [0x28, 0x29].all (fun a : Byte =>
      let s := { rig with busPort := [.address a] }
      decide (s.faults = [] ∧ s.initDone = true ∧ s.callPort = [] ∧ a.extractLsb' 1 7 = s.ownAddr)) = true ∧
    (0x28 : Byte).getLsbD 0 = false ∧ (0x29 : Byte).getLsbD 0 = true := by decide

/-- Another address, the general call, and the ends of the reserved ranges. -/
theorem witness_UnmatchedAddressByteDeliversNoEvent :
    ((0x2A : Byte).extractLsb' 1 7 ≠ rig.ownAddr ∧ ((0x0F : Byte).extractLsb' 1 7).toNat = 0x07 ∧
      ((0xF0 : Byte).extractLsb' 1 7).toNat = 0x78) ∧
    ∃ s : State, s.Inv ∧ Enabled s ∧ s.busPort = [.address 0x00] ∧ s.callPort = [] :=
  ⟨by decide, { rig with busPort := [.address 0x00] }, by constructor <;> decide, ⟨rfl, rfl⟩, rfl, rfl⟩

theorem witness_SnapshotCopiesStagingInEveryTurnState :
    [AppTurn.noTurn, .opened, .closed].all (fun x => decide ({ rig with appTurn := x }.faults = [])) = true := by decide

theorem witness_SecondSnapshotChangesNothing : ∃ t, exec .snapshot rig = .next t := ⟨_, rfl⟩

/-- An open turn without a conflict, with one at a position (the lowest), and no open turn. -/
theorem witness_CommitWritesExactlyTheChangedBytes :
    (∃ s : State, s.Inv ∧ s.faults = [] ∧ s.appTurn = .opened ∧ (∀ p, ¬ conflictAt s p) ∧
      s.userBuffer.read 7 ≠ s.userBufferSnapshot.read 7) ∧
    (∃ s : State, s.Inv ∧ s.faults = [] ∧ s.appTurn = .opened ∧ conflictAt s 0 ∧ ∀ q, q < 0 → ¬ conflictAt s q) ∧
    (∃ s : State, s.Inv ∧ s.faults = [] ∧ s.appTurn ≠ .opened) :=
  ⟨⟨rigApp .opened [1, 2, 3, 4, 5, 6, 7, 9] [], by constructor <;> decide, rfl, rfl,
      fun p h => List.not_mem_nil h.2.2, by decide⟩,
   ⟨rigApp .opened [9, 2, 3, 4, 5, 6, 7, 8] [0], by constructor <;> decide, rfl, rfl,
      ⟨by decide, by decide, List.mem_singleton.2 rfl⟩, fun q h => absurd h (Nat.not_lt_zero q)⟩,
   ⟨{ rig with appTurn := .closed }, by constructor <;> decide, rfl, by decide⟩⟩

/-- The last index, the first one past the record, and no open turn; the same three serve `UWRITE`. -/
theorem witness_UreadAndUwrite :
    rig.Inv ∧ rig.faults = [] ∧ rig.appTurn = .opened ∧ (7 : Byte).toNat + 1 = rig.cfg.size ∧
      (8 : Byte).toNat = rig.cfg.size ∧
      ∃ s : State, s.Inv ∧ s.faults = [] ∧ s.appTurn ≠ .opened :=
  ⟨rig_inv, rfl, rfl, rfl, rfl, { rig with appTurn := .noTurn }, by constructor <;> decide, rfl, by decide⟩

/-- The ends of the legal range and the addresses just outside it. -/
theorem witness_InitRegistersOnce :
    fresh.faults = [] ∧ fresh.initDone = false ∧ rig.faults = [] ∧ rig.initDone = true ∧
      (0x08 : Addr7).toNat = 0x08 ∧ (0x77 : Addr7).toNat = 0x77 ∧ (0x07 : Addr7).toNat < 0x08 ∧
      0x77 < (0x78 : Addr7).toNat := by decide

/-- A recorded fault, a step that raises, a step that does not. -/
theorem witness_RecordedFaultStopsTheMachine :
    (∃ s : State, s.faults ≠ []) ∧ (∃ s t, exec .stAddr s = .next t ∧ t.faults ≠ []) ∧
      ∃ t, exec .stAddr rig = .next t ∧ t.faults = [] :=
  ⟨⟨{ rig with faults := [.readNoOffset] }, by decide⟩, ⟨{ rig with offsetValid := false }, _, rfl, by decide⟩,
    _, rfl, rfl⟩

theorem witness_EachAgentWritesOnlyItsOwnState :
    (∃ t, exec .srStop rig = .next t) ∧ Instr.srStop.isBusEvent = true ∧ (∃ t, exec .commit rig = .next t) ∧
      Instr.commit.isBusEvent = false := ⟨⟨_, rfl⟩, rfl, ⟨_, rfl⟩, rfl⟩

theorem witness_OnlyStopAndCommitWriteStaging : ∃ t, exec (.uwrite 0 9) rig = .next t := ⟨_, rfl⟩

/-- One step for every clause. -/
theorem witness_TransactionStateTable :
    (∃ t, exec .srAddr rig = .next t ∧ t.faults = []) ∧
    (∃ t, exec (.srDataAck 5) (rigTx .awaitingOffset 0 []) = .next t ∧ t.faults = []) ∧
    (∃ t, exec .srStop rig = .next t ∧ t.faults = []) ∧ (∃ t, exec .busError rig = .next t ∧ t.faults = []) :=
  ⟨⟨_, rfl, rfl⟩, ⟨_, rfl, rfl⟩, ⟨_, rfl, rfl⟩, ⟨_, rfl, rfl⟩⟩

/-- One step for every clause. -/
theorem witness_TurnDisciplineTable :
    (∃ t, exec .snapshot fresh = .next t ∧ t.faults = []) ∧ (∃ t, exec .commit rig = .next t ∧ t.faults = []) ∧
    (∃ t, exec (.uread 7) rig = .next t ∧ t.faults = []) ∧ (∃ t, exec (.uwrite 7 1) rig = .next t ∧ t.faults = []) ∧
    (∃ t, exec (.init 0x14) fresh = .next t ∧ t.faults = []) :=
  ⟨⟨_, rfl, rfl⟩, ⟨_, rfl, rfl⟩, ⟨_, rfl, rfl⟩, ⟨_, rfl, rfl⟩, ⟨_, rfl, rfl⟩⟩

theorem witness_OffsetPersistsAcrossTransactions :
    rig.offsetValid = true ∧ ∃ t, exec .srStop rig = .next t := ⟨rfl, _, rfl⟩

theorem witness_ParametersAndRegistrationAreFixed :
    ∃ s t : State, s.initDone = true ∧ step s = .next t := ⟨{ rig with busPort := [.event 0x0060] }, _, rfl, rfl⟩

theorem witness_EveryStepKeepsTheInvariant : ∃ s t : State, s.Inv ∧ step s = .next t :=
  ⟨{ rigTx .active 5 [1, 2, 3] with busPort := [.event 0x00A0] }, _, by constructor <;> decide, rfl⟩

/-- A turn between the start and the read: its commit changes `staging`, not what is read (L1-P1). -/
theorem witness_ReadsSeeStagingAsAtTheLastStart :
    ∃ s₀ t u : State, exec .srAddr rig = .next s₀ ∧
      execAll [.srDataAck 0, .srStop, .snapshot, .uwrite 0 9, .commit] s₀ = .next t ∧ exec .stAddr t = .next u ∧
      u.faults = [] ∧ t.staging.read 0 = 9 := ⟨_, _, _, rfl, rfl, rfl, rfl, rfl⟩

theorem witness_CommitKeepsUnchangedBytes :
    ∃ t : State, rig.Inv ∧ exec .commit rig = .next t ∧ rig.userBuffer.read 7 = rig.userBufferSnapshot.read 7 :=
  ⟨_, rig_inv, rfl, rfl⟩

theorem witness_TurnWithoutWritesCommitsNothing :
    ∃ s₀ t : State, exec .snapshot rig = .next s₀ ∧ (∀ i ∈ mwrite 0 [0x44], i.isBusEvent = true) ∧
      execAll (mwrite 0 [0x44]) s₀ = .next t ∧ t.faults = [] := ⟨_, _, rfl, by decide, rfl, rfl⟩

theorem awaiting_inv : (rigTx .awaitingOffset 0 []).Inv := by constructor <;> decide

/-- 17 data bytes (L1-P4), the batch ending at N-1, and no data byte, at the offset N. -/
theorem witness_BatchHoldsTheLastPartialGroup :
    (∃ s : State, s.Inv ∧ Enabled s ∧ s.txState = .awaitingOffset ∧ s.pendingCount = 0 ∧
      ∃ t, execAll (.srDataAck 7 :: (List.replicate 17 (1 : Byte)).map .srDataAck) s = .next t ∧
        7 + t.pendingCount = s.cfg.size) ∧
    (∃ s : State, s.Inv ∧ Enabled s ∧ s.txState = .awaitingOffset ∧ s.pendingCount = 0 ∧
      ∃ t, execAll (.srDataAck 8 :: ([] : List Byte).map .srDataAck) s = .next t ∧
        8 + t.pendingCount = s.cfg.size) :=
  ⟨⟨_, awaiting_inv, rigTx_enabled _ _ _, rfl, rfl, _, rfl, rfl⟩,
   ⟨_, awaiting_inv, rigTx_enabled _ _ _, rfl, rfl, _, rfl, rfl⟩⟩

/-- Data that ends at N-1. -/
theorem witness_MasterWriteLandsAtItsOffset :
    rig.Inv ∧ Enabled rig ∧ rig.pendingCount = 0 ∧ [0x11, 0x22, (0x33 : Byte)].length ≤ rig.cfg.cap ∧
      (5 : Byte).toNat + [0x11, 0x22, (0x33 : Byte)].length = rig.cfg.size :=
  ⟨rig_inv, rig_enabled, rfl, by decide, rfl⟩

/-- A read of the whole record and of its last byte. -/
theorem witness_MasterReadReturnsConsecutiveBytes :
    (Enabled rig ∧ rig.offsetValid = true ∧ rig.offset + 8 = rig.cfg.size) ∧
      Enabled (rigTx .idle 7 []) ∧ (rigTx .idle 7 []).offset + 1 = rig.cfg.size :=
  ⟨⟨rig_enabled, rfl, rfl⟩, rigTx_enabled _ _ _, rfl⟩

theorem witness_ReadAfterWriteIsStaleUntilTheNextStart :
    rig.Inv ∧ Enabled rig ∧ rig.pendingCount = 0 ∧ (7 : Byte).toNat + 1 = rig.cfg.size :=
  ⟨rig_inv, rig_enabled, rfl, rfl⟩

/-- L3.6, with the batch ending at N-1. -/
theorem witness_BatchSurvivesABusErrorAndLandsAtTheNewOffset :
    ∃ s : State, s.Inv ∧ Enabled s ∧ s.txState = .active ∧ s.pendingCount < s.cfg.cap ∧
      (5 : Byte).toNat + s.pendingCount + 1 = s.cfg.size :=
  ⟨rigTx .active 1 [0xAA, 0xBB], by constructor <;> decide, rigTx_enabled _ _ _, rfl, by decide, rfl⟩

theorem witness_WellFormedSequencesNeverRaiseRxIdle :
    ∃ t : State, rig.faults = [] ∧ wellFormedSequence ([.srAddr, .srDataAck 5] ++ [.srStop]) = true ∧
      execAll [.srAddr, .srDataAck 5] rig = .next t := ⟨_, rfl, rfl, rfl⟩

theorem witness_BatchIsEmptyAtEveryStartWithoutBusErrors :
    ∃ t u : State, wellFormedSequence (mwrite 5 [1] ++ .srAddr :: [.srStop]) = true ∧ .busError ∉ mwrite 5 [1] ∧
      rig.pendingCount = 0 ∧ execAll (mwrite 5 [1]) rig = .next t ∧ exec .srAddr t = .next u :=
  ⟨_, _, rfl, by decide, rfl, rfl, rfl⟩

end Sys2Proof.Tests
end

section
/-! Proofs of the family of the buffers in memory: who writes `transactionReadBuffer`, and what a read transmits. -/

open Sys2Proof Sys2Proof.Machine Sys2Proof.Claims

namespace Sys2Proof.Machine

/-- R101 from the list of effects: of all the ways an input ends, only `onStart` writes `transactionReadBuffer`. -/
theorem Effect.transactionReadBuffer_eq {i : Instr} {s t : State} (h : Effect i s t) (hi : i ≠ .srAddr) :
    t.transactionReadBuffer = s.transactionReadBuffer := by
  cases h with
  | start => exact absurd rfl hi
  | _ => rfl

/-- The frame of one input. -/
theorem exec_transactionReadBuffer {i : Instr} {s t : State} (hi : i ≠ .srAddr) (h : exec i s = .next t) :
    t.transactionReadBuffer = s.transactionReadBuffer :=
  (exec_effect h).2.transactionReadBuffer_eq hi

/-- The frame of a whole sequence: until the next `SR_ADDR` the read buffer stays as it is. -/
theorem execAll_transactionReadBuffer {l : List Instr} {s t : State} (hl : .srAddr ∉ l)
    (h : execAll l s = .next t) : t.transactionReadBuffer = s.transactionReadBuffer := by
  induction l generalizing s with
  | nil => cases h; rfl
  | cons i is ih =>
    obtain ⟨u, hu, ht⟩ := execAll_cons_next h
    obtain ⟨hi, his⟩ := List.ne_and_not_mem_of_not_mem_cons hl
    calc t.transactionReadBuffer
      _ = u.transactionReadBuffer := ih his ht
      _ = s.transactionReadBuffer := exec_transactionReadBuffer hi.symm hu

/-- R101: `SR_ADDR` copies `staging` into the read buffer. -/
theorem exec_srAddr_transactionReadBuffer {s t : State} (h : exec .srAddr s = .next t) :
    t.transactionReadBuffer = s.staging := by
  obtain ⟨-, -, ⟨u, hu, rfl⟩ | hr⟩ := busEvent_next h
  · cases hu; rfl
  · cases hr

/-- Both requesting events run the one action of R89 and R90. -/
theorem exec_of_mem_requests {i : Instr} (hi : i ∈ requests) (s : State) :
    exec i s = busEvent transmitNext true s := by
  obtain rfl | rfl : i = .stAddr ∨ i = .stDataAck := by simpa [requests] using hi
  · rfl
  · rfl

/-- R106, R107: a request that raises nothing transmits the byte of the read buffer at `offset`. -/
theorem exec_request_outTrace {i : Instr} {s t : State} (hi : i ∈ requests) (h : exec i s = .next t)
    (hf : t.faults = []) :
    t.outTrace =
      s.outTrace ++ [.delay s.cfg.delayUs, .txByte (s.transactionReadBuffer.read s.offset), .ackNext] := by
  rw [exec_of_mem_requests hi] at h
  obtain ⟨hs, hinit, -⟩ := busEvent_next h
  rcases transmitNext_cases s with ⟨-, -, e⟩ | ⟨-, e⟩ | ⟨-, -, e⟩
  · rw [busEvent_done hs hinit e] at h
    cases h
    simp
  · rw [busEvent_raised hs hinit e] at h
    cases h
    simp at hf
  · rw [busEvent_raised hs hinit e] at h
    cases h
    simp at hf

end Sys2Proof.Machine

namespace Sys2Proof.Proofs

/-- Settles O36: `SR_ADDR` copies `staging` into the read buffer, no input short of the next `SR_ADDR` writes that
buffer, and a request transmits from it. -/
theorem readsSeeStagingAsAtTheLastStart : Obligations.ReadsSeeStagingAsAtTheLastStart := by
  intro l s s₀ t u i hstart hl hrun hi hreq hf
  have hbuf : t.transactionReadBuffer = s.staging :=
    (execAll_transactionReadBuffer hl hrun).trans (exec_srAddr_transactionReadBuffer hstart)
  rw [exec_request_outTrace hi hreq hf, hbuf]

end Sys2Proof.Proofs
end

section
/-! Proofs of the family of the encoding: the bus decoder is a lookup in the table of R67. -/

open Sys2Proof Sys2Proof.Claims

namespace Sys2Proof

/-- The table of R67 with the codes `c`: the status of each listed kind and the event it stands for, `d` being the data
byte of the two data events. -/
def busRows (c : EventCodes) (d : Byte) : List (Σ _ : Byte, Instr) :=
  [⟨c.srAddr, .srAddr⟩, ⟨c.srDataAck, .srDataAck d⟩, ⟨c.srDataNack, .srDataNack d⟩, ⟨c.srStop, .srStop⟩,
    ⟨c.stAddr, .stAddr⟩, ⟨c.stDataAck, .stDataAck⟩, ⟨c.stDataNack, .stDataNack⟩, ⟨c.stLastData, .stLastData⟩,
    ⟨c.noInfo, .noInfo⟩, ⟨c.busError, .busError⟩]

@[simp] theorem busRows_keys (c : EventCodes) (d : Byte) : (busRows c d).keys = c.toList := rfl

/-- The first row of a table is one test: its value when the key matches, else the lookup in the rows below. -/
theorem getD_dlookup_cons {α β : Type} [DecidableEq α] (k k' : α) (v d : β) (l : List (Σ _ : α, β)) :
    (List.dlookup k (⟨k', v⟩ :: l)).getD d = if k = k' then v else (l.dlookup k).getD d := by
  by_cases h : k = k'
  · subst h
    simp
  · rw [List.dlookup_cons_ne l _ h, if_neg h]

/-- R68: the decoder's chain of tests is the lookup of the status in the table, and `OTHER` when there is no row. -/
theorem decodeBus_eq_dlookup (c : EventCodes) (w : BusWord) :
    decodeBus c w = ((busRows c (dataOf w)).dlookup (statusOf w)).getD (.other (w.extractLsb' 3 5)) := by
  simp only [decodeBus, busRows, getD_dlookup_cons, List.dlookup_nil, Option.getD_none]

/-- A row whose status matches is the event decoded: the codes are distinct, so no earlier row hides it. -/
theorem decodeBus_of_mem_busRows {c : EventCodes} {w : BusWord} (hc : c.wf = true) :
    ∀ p ∈ busRows c (dataOf w), statusOf w = p.1 → decodeBus c w = p.2 := by
  rintro ⟨_, i⟩ hp rfl
  have hdistinct : (busRows c (dataOf w)).NodupKeys := by
    rw [List.NodupKeys, busRows_keys]
    exact (EventCodes.wf_iff.mp hc).2
  have hrow : (busRows c (dataOf w)).dlookup (statusOf w) = some i := List.mem_dlookup hdistinct hp
  rw [decodeBus_eq_dlookup, hrow, Option.getD_some]

/-- A status that is none of the codes decodes to `OTHER`. -/
theorem decodeBus_of_not_mem_toList {c : EventCodes} {w : BusWord} (h : statusOf w ∉ c.toList) :
    decodeBus c w = .other (w.extractLsb' 3 5) := by
  have hnone : (busRows c (dataOf w)).dlookup (statusOf w) = none := by
    rwa [List.dlookup_eq_none, busRows_keys]
  rw [decodeBus_eq_dlookup, hnone, Option.getD_none]

end Sys2Proof

namespace Sys2Proof.Proofs

/-- Settles O3: the decoder looks the status up in the table of R67, whose keys are distinct. -/
theorem busDecoderSelectsTheRowOfTheStatus : Obligations.BusDecoderSelectsTheRowOfTheStatus := by
  refine ⟨by decide, fun c w hc => ?_⟩
  have hrows := decodeBus_of_mem_busRows (w := w) hc
  have hother := decodeBus_of_not_mem_toList (c := c) (w := w)
  simpa only [busRows, statusOf, dataOf, List.forall_mem_cons, List.not_mem_nil, false_imp_iff, implies_true,
    true_and, and_assoc] using And.intro hrows hother

end Sys2Proof.Proofs
end

section
/-! Proofs of the family of the bus state machine: the events that run no callback (R87, R91–R95). -/

open Sys2Proof Sys2Proof.Machine Sys2Proof.Claims

namespace Sys2Proof.Machine

/-- Two outputs in a row are appended in the order they are emitted (R33). -/
theorem State.emit_emit (s : State) (o p : Output) :
    (s.emit o).emit p = { s with outTrace := s.outTrace ++ [o, p] } := by
  simp [State.emit]

/-- The five no-op events run the one action `skip`, whatever byte or status they carry (R87, R91, R92, R93, R95). -/
theorem exec_eq_busEvent_skip {i : Instr}
    (hi : (∃ b, i = .srDataNack b) ∨ i = .stDataNack ∨ i = .stLastData ∨ i = .noInfo ∨ ∃ st, i = .other st)
    (s : State) : exec i s = busEvent skip true s := by
  obtain ⟨b, rfl⟩ | rfl | rfl | rfl | ⟨st, rfl⟩ := hi
  · rfl
  · rfl
  · rfl
  · rfl
  · rfl

/-- R84 around `skip`: an enabled machine only acknowledges. -/
theorem busEvent_skip_enabled {s : State} (hs : Enabled s) : busEvent skip true s = .next (s.emit .ackNext) :=
  busEvent_done hs.1 hs.2 rfl

/-- R94, R96: the bus is recovered first; the acknowledge that may follow is the parameter's choice. -/
theorem exec_busError_enabled {s : State} (hs : Enabled s) :
    exec .busError s = .next
      (if s.cfg.ackAfterBusError then (s.emit .recoverBusError).emit .ackNext else s.emit .recoverBusError) :=
  busEvent_done hs.1 hs.2 rfl

end Sys2Proof.Machine

namespace Sys2Proof.Proofs

/-- Settles O13: each of the five events is the event step around `skip`, which adds the acknowledge only. -/
theorem unusedEventsAreOnlyAcknowledged : Obligations.UnusedEventsAreOnlyAcknowledged := by
  intro s i hs hi
  calc exec i s
    _ = busEvent skip true s := exec_eq_busEvent_skip hi s
    _ = .next (s.emit .ackNext) := busEvent_skip_enabled hs

/-- Settles O14: the two values of `ACK_AFTER_BUS_ERROR` are the two branches of the step's end. -/
theorem busErrorOnlyRecoversTheBus : Obligations.BusErrorOnlyRecoversTheBus := by
  intro s hs
  have hstep := exec_busError_enabled hs
  constructor
  · intro hack
    rw [hstep, if_pos hack, State.emit_emit]
  · intro hsilent
    rw [hstep, if_neg (by simp [hsilent])]
    rfl

end Sys2Proof.Proofs
end

section
/-! Proofs of the family of the buffer manager: the four callbacks as whole event steps (R99–R112), and the master's
write and read built from them (R111, R117, R118). -/

open Sys2Proof Sys2Proof.Machine Sys2Proof.Claims

namespace Sys2Proof.Machine

/-! ### Each callback as one step of an enabled machine -/

/-- R84, R96: an action that runs through in `u`, having emitted `l`, is followed by the acknowledge. -/
theorem busEvent_acknowledged {body : State → Flow Unit} {s u : State} {l : List Output} (hs : Enabled s)
    (hb : body s = .done () u) (hl : u.outTrace = s.outTrace ++ l) :
    busEvent body true s = .next { u with outTrace := s.outTrace ++ (l ++ [.ackNext]) } := by
  rw [busEvent_done hs.1 hs.2 hb, if_pos rfl, State.emit, hl, List.append_assoc]

/-- R100, R148: a callback that raises leaves its delay and the one record. -/
theorem busEvent_faulted {body : State → Flow Unit} {ack : Bool} {s : State} {r : FaultRecord} (hs : Enabled s)
    (hb : body s = .raised ((beginCallback s).addFault r)) :
    busEvent body ack s = .next { s with faults := [r], outTrace := s.outTrace ++ [.delay s.cfg.delayUs] } := by
  rw [busEvent_raised hs.1 hs.2 hb, beginCallback_eq, State.addFault, hs.1, List.nil_append]

theorem exec_srAddr_enabled {s : State} (hs : Enabled s) :
    exec .srAddr s = .next { s with
      transactionReadBuffer := s.staging, txState := .awaitingOffset,
      outTrace := s.outTrace ++ [.delay s.cfg.delayUs, .ackNext] } :=
  busEvent_acknowledged (u := (beginCallback s).beginTransaction) (l := [.delay s.cfg.delayUs]) hs rfl rfl

theorem exec_srDataAck_awaitingOffset {s : State} (hs : Enabled s) (ht : s.txState = .awaitingOffset) (b : Byte) :
    exec (.srDataAck b) s = .next { s with
      offset := b.toNat, offsetValid := true, txState := .active,
      outTrace := s.outTrace ++ [.delay s.cfg.delayUs, .ackNext] } :=
  busEvent_acknowledged (l := [.delay s.cfg.delayUs]) hs (onReceiveByte_awaitingOffset ht b) rfl

theorem exec_srDataAck_active {s : State} (hs : Enabled s) (ht : s.txState = .active) (b : Byte) :
    exec (.srDataAck b) s = .next { s with
      pendingWrites := s.pendingWrites.write (appendIndex s.cfg.cap s.pendingCount) b,
      pendingCount := appendIndex s.cfg.cap s.pendingCount + 1,
      outTrace := s.outTrace ++ [.delay s.cfg.delayUs, .ackNext] } :=
  busEvent_acknowledged (l := [.delay s.cfg.delayUs]) hs (onReceiveByte_active ht b) rfl

theorem exec_srDataAck_idle {s : State} (hs : Enabled s) (ht : s.txState = .idle) (b : Byte) :
    exec (.srDataAck b) s = .next { s with
      faults := [.rxIdle b], outTrace := s.outTrace ++ [.delay s.cfg.delayUs] } :=
  busEvent_faulted hs (onReceiveByte_idle ht b)

theorem exec_srStop_empty {s : State} (hs : Enabled s) (h : s.pendingCount = 0) :
    exec .srStop s = .next { s with
      txState := .idle, outTrace := s.outTrace ++ [.delay s.cfg.delayUs, .ackNext] } :=
  busEvent_acknowledged (l := [.delay s.cfg.delayUs]) hs (onStop_empty h) rfl

theorem exec_srStop_oob {s : State} (hs : Enabled s) (h : 0 < s.pendingCount)
    (hn : s.cfg.size < s.offset + s.pendingCount) :
    exec .srStop s = .next { s with
      faults := [.writeOob s.offset s.pendingCount], outTrace := s.outTrace ++ [.delay s.cfg.delayUs] } :=
  busEvent_faulted hs (onStop_oob h hn)

/-- R108, R110: the state after a stop whose batch, empty or not, ends within the record. -/
def State.stopped (s : State) : State :=
  { s with
    staging := applyBytes s.pendingWrites s.offset s.pendingCount s.staging
    busTouched := if s.appTurn = .opened then touchRange s.offset s.pendingCount s.busTouched else s.busTouched
    pendingCount := 0
    txState := .idle
    outTrace := s.outTrace ++ [.delay s.cfg.delayUs, .ackNext] }

/-- C5: an empty batch is applied as well; it writes and marks nothing. -/
theorem State.stopped_of_empty {s : State} (h : s.pendingCount = 0) :
    s.stopped =
      { s with txState := .idle, outTrace := s.outTrace ++ [.delay s.cfg.delayUs, .ackNext] } := by
  simp only [State.stopped, h, applyBytes, touchRange, ite_self]

theorem exec_srStop_inRange {s : State} (hs : Enabled s) (hn : s.offset + s.pendingCount ≤ s.cfg.size) :
    exec .srStop s = .next s.stopped := by
  rcases Nat.eq_zero_or_pos s.pendingCount with h | h
  · rw [exec_srStop_empty hs h, State.stopped_of_empty h]
  · exact busEvent_acknowledged (l := [.delay s.cfg.delayUs]) hs (onStop_apply h hn) rfl

/-- R108: which bytes of `staging` a stop in range writes. -/
theorem State.stopped_staging_read {s : State} (hw : s.staging.wf = true) (p : Nat) :
    s.stopped.staging.read p =
      if s.offset ≤ p ∧ p < s.offset + s.pendingCount then s.pendingWrites.read (p - s.offset)
      else s.staging.read p :=
  applyBytes_read hw _ _ _ _

theorem State.stopped_staging_read_batch {s : State} (hw : s.staging.wf = true) {j : Nat} (hj : j < s.pendingCount) :
    s.stopped.staging.read (s.offset + j) = s.pendingWrites.read j := by
  rw [State.stopped_staging_read hw, if_pos (by omega), Nat.add_sub_cancel_left]

theorem State.stopped_staging_read_outside {s : State} (hw : s.staging.wf = true) {p : Nat}
    (hp : p < s.offset ∨ s.offset + s.pendingCount ≤ p) : s.stopped.staging.read p = s.staging.read p := by
  rw [State.stopped_staging_read hw, if_neg (by omega)]

/-- R110: which positions a stop in range marks. -/
theorem State.mem_stopped_busTouched {s : State} {p : Nat} :
    p ∈ s.stopped.busTouched ↔
      p ∈ s.busTouched ∨ (s.appTurn = .opened ∧ s.offset ≤ p ∧ p < s.offset + s.pendingCount) := by
  by_cases ht : s.appTurn = .opened
  · simp [State.stopped, ht, mem_touchRange]
  · simp [State.stopped, ht]

theorem State.stopped_busTouched_of_not_opened {s : State} (ht : s.appTurn ≠ .opened) :
    s.stopped.busTouched = s.busTouched := if_neg ht

/-- R106: a request in range, in every `txState`. -/
theorem exec_request_enabled {i : Instr} (hi : i ∈ requests) {s : State} (hs : Enabled s)
    (hv : s.offsetValid = true) (hn : s.offset < s.cfg.size) :
    exec i s = .next { s with
      offset := s.offset + 1,
      outTrace := s.outTrace ++
        [.delay s.cfg.delayUs, .txByte (s.transactionReadBuffer.read s.offset), .ackNext] } := by
  have hbody : transmitNext s =
      .done () ((beginCallback s).advanceOffset.emit (.txByte (s.transactionReadBuffer.read s.offset))) := by
    rw [transmitNext, onRequestByte_done hv hn, Flow.andThen_done]
  rw [exec_of_mem_requests hi]
  exact busEvent_acknowledged
    (l := [.delay s.cfg.delayUs, .txByte (s.transactionReadBuffer.read s.offset)]) hs hbody (by simp)

/-- R107: a request that the callback refuses raises what the callback raises. -/
theorem exec_request_faulted {i : Instr} (hi : i ∈ requests) {s : State} {r : FaultRecord} (hs : Enabled s)
    (hb : onRequestByte s = .raised ((beginCallback s).addFault r)) :
    exec i s = .next { s with faults := [r], outTrace := s.outTrace ++ [.delay s.cfg.delayUs] } := by
  rw [exec_of_mem_requests hi]
  exact busEvent_faulted hs (by rw [transmitNext, hb, Flow.andThen_raised])

/-! ### What the invariant says of the batch and of `staging` -/

theorem State.Inv.one_le_cap {s : State} (h : s.Inv) : 1 ≤ s.cfg.cap := by
  have hcfg := h.cfg
  simp only [Config.wf, Bool.and_eq_true, decide_eq_true_eq] at hcfg
  obtain ⟨⟨-, hcap⟩, -⟩ := hcfg
  exact hcap

theorem State.Inv.pendingWrites_wf {s : State} (h : s.Inv) : s.pendingWrites.wf = true :=
  (Memory.fits_iff.1 h.batch).1

theorem State.Inv.staging_wf {s : State} (h : s.Inv) : s.staging.wf = true :=
  (Memory.fits_iff.1 h.staging).1

/-! ### The batch after any number of data bytes -/

/-- R111: the batch of `n` bytes in `pw` is what is left of the sequence `ds` when its first `q` groups of `cap` bytes
have been discarded; it is empty only when `ds` is. -/
structure HoldsLastGroup (cap q : Nat) (ds : List Byte) (pw : Memory) (n : Nat) : Prop where
  wf : pw.wf = true
  length : ds.length = cap * q + n
  le : n ≤ cap
  pos : ds ≠ [] → 0 < n
  bytes : ∀ j, j < n → ds[cap * q + j]? = some (pw.read j)

theorem HoldsLastGroup.empty {pw : Memory} (hw : pw.wf = true) (cap : Nat) : HoldsLastGroup cap 0 [] pw 0 where
  wf := hw
  length := by simp
  le := by simp
  pos := by simp
  bytes := by simp

/-- R111: no byte, no batch. -/
theorem HoldsLastGroup.count_nil {cap q n : Nat} {pw : Memory} (h : HoldsLastGroup cap q [] pw n) : n = 0 := by
  have hlen : 0 = cap * q + n := h.length
  omega

/-- R104: one more byte joins the group, or opens the next one when the group is full. -/
theorem HoldsLastGroup.append {cap q n : Nat} {ds : List Byte} {pw : Memory} (h : HoldsLastGroup cap q ds pw n)
    (hcap : 1 ≤ cap) (b : Byte) :
    ∃ q', HoldsLastGroup cap q' (ds ++ [b]) (pw.write (appendIndex cap n) b) (appendIndex cap n + 1) := by
  obtain ⟨hw, hlen, hle, -, hbytes⟩ := h
  by_cases hfull : n = cap
  · have hidx : appendIndex cap n = 0 := if_pos hfull
    have hstart : cap * (q + 1) = ds.length := by rw [hlen, hfull, Nat.mul_succ]
    rw [hidx]
    refine ⟨q + 1, Memory.wf_write hw _ _, by simp [hstart], hcap, by simp, fun j hj => ?_⟩
    obtain rfl : j = 0 := by omega
    rw [hstart, Nat.add_zero, List.getElem?_concat_length, Memory.read_write hw, if_pos rfl]
  · have hidx : appendIndex cap n = n := if_neg hfull
    rw [hidx]
    refine ⟨q, Memory.wf_write hw _ _, by simp [hlen, Nat.add_assoc], by omega, by simp, fun j hj => ?_⟩
    by_cases hlast : j = n
    · subst hlast
      rw [← hlen, List.getElem?_concat_length, Memory.read_write hw, if_pos rfl]
    · have hlt : j < n := by omega
      rw [List.getElem?_append_left (by omega), hbytes j hlt, Memory.read_write hw, if_neg hlast]

/-- The group the batch holds is the one the last byte falls in: the division of R111. -/
theorem HoldsLastGroup.div_mod {cap q n : Nat} {ds : List Byte} {pw : Memory} (h : HoldsLastGroup cap q ds pw n)
    (hne : ds ≠ []) : (ds.length - 1) / cap = q ∧ (ds.length - 1) % cap + 1 = n := by
  have hpos := h.pos hne
  have hle := h.le
  have hunique : (ds.length - 1) / cap = q ∧ (ds.length - 1) % cap = n - 1 :=
    (Nat.div_mod_unique (by omega)).2 ⟨by have := h.length; omega, by omega⟩
  exact ⟨hunique.1, by omega⟩

/-- A sequence that fits the batch is held from its first byte on (R117). -/
theorem HoldsLastGroup.whole {cap q n : Nat} {ds : List Byte} {pw : Memory} (h : HoldsLastGroup cap q ds pw n)
    (hcap : ds.length ≤ cap) : ds.length = n ∧ ∀ j, j < n → ds[j]? = some (pw.read j) := by
  have hlen := h.length
  have hbytes := h.bytes
  have hstart : cap * q = 0 := by
    by_cases hne : ds = []
    · subst hne
      have hnil : 0 = cap * q + n := hlen
      omega
    · have hpos := List.length_pos_of_ne_nil hne
      rw [← (h.div_mod hne).1, Nat.div_eq_of_lt (by omega), Nat.mul_zero]
  simp only [hstart, Nat.zero_add] at hlen hbytes
  exact ⟨hlen, hbytes⟩

/-- The state `s` with another batch and more outputs: what data bytes in Active make of it (R104). -/
def State.withBatch (s : State) (pw : Memory) (n : Nat) (out : List Output) : State :=
  { s with pendingWrites := pw, pendingCount := n, outTrace := out }

/-- R108: where the stop puts that batch. -/
theorem State.withBatch_stopped_staging_read (s : State) (hw : s.staging.wf = true) (pw : Memory)
    (out : List Output) {n j : Nat} (hj : j < n) :
    (s.withBatch pw n out).stopped.staging.read (s.offset + j) = pw.read j :=
  State.stopped_staging_read_batch (s := s.withBatch pw n out) hw hj

/-- R111: any number of data bytes in Active, from an empty batch. -/
theorem execAll_dataBytes {s : State} (hs : Enabled s) (ht : s.txState = .active) (h0 : s.pendingCount = 0)
    (hw : s.pendingWrites.wf = true) (hcap : 1 ≤ s.cfg.cap) (ds : List Byte) :
    ∃ q pw n out, execAll (ds.map .srDataAck) s = .next (s.withBatch pw n out) ∧
      HoldsLastGroup s.cfg.cap q ds pw n := by
  induction ds using List.reverseRecOn with
  | nil => exact ⟨0, s.pendingWrites, 0, s.outTrace, by rw [← h0]; rfl, .empty hw _⟩
  | append_singleton ds b ih =>
    obtain ⟨q, pw, n, out, hrun, hgroup⟩ := ih
    obtain ⟨q', hgroup'⟩ := hgroup.append hcap b
    refine ⟨q', _, _, out ++ [.delay s.cfg.delayUs, .ackNext], ?_, hgroup'⟩
    rw [List.map_append, execAll_append hrun]
    exact execAll_cons (exec_srDataAck_active (s := s.withBatch pw n out) hs ht b)

/-- R103, R111: an offset byte and any number of data bytes, from an empty batch. -/
theorem execAll_offset_dataBytes {s : State} (hs : Enabled s) (ht : s.txState = .awaitingOffset)
    (h0 : s.pendingCount = 0) (hw : s.pendingWrites.wf = true) (hcap : 1 ≤ s.cfg.cap) (o : Byte) (ds : List Byte) :
    ∃ q pw n out,
      execAll (.srDataAck o :: ds.map .srDataAck) s = .next ((s.takeOffset o.toNat).withBatch pw n out) ∧
      HoldsLastGroup s.cfg.cap q ds pw n := by
  have hstart := exec_srDataAck_awaitingOffset hs ht o
  rw [execAll_cons hstart]
  exact execAll_dataBytes (s := { s with
    offset := o.toNat, offsetValid := true, txState := .active,
    outTrace := s.outTrace ++ [.delay s.cfg.delayUs, .ackNext] }) hs rfl h0 hw hcap ds

/-! ### Requests in a row -/

/-- The outputs of `k` requests from the state `s` on (R106). -/
def readOutputs (s : State) (k : Nat) : List Output :=
  (List.range k).flatMap fun j =>
    [.delay s.cfg.delayUs, .txByte (s.transactionReadBuffer.read (s.offset + j)), .ackNext]

theorem readOutputs_succ (s : State) (k : Nat) : readOutputs s (k + 1) = readOutputs s k ++
    [.delay s.cfg.delayUs, .txByte (s.transactionReadBuffer.read (s.offset + k)), .ackNext] := by
  simp [readOutputs, List.range_succ]

/-- R118: requests in a row transmit consecutive bytes. -/
theorem execAll_requests {s : State} (hs : Enabled s) (hv : s.offsetValid = true) {l : List Instr}
    (hl : ∀ i ∈ l, i ∈ requests) (hn : s.offset + l.length ≤ s.cfg.size) :
    execAll l s = .next { s with
      offset := s.offset + l.length, outTrace := s.outTrace ++ readOutputs s l.length } := by
  induction l using List.reverseRecOn with
  | nil => simp [execAll, readOutputs]
  | append_singleton l i ih =>
    rw [List.length_append, List.length_singleton] at hn ⊢
    have hrun := ih (fun j hj => hl j (by simp [hj])) (by omega)
    have hlast := exec_request_enabled (hl i (by simp)) (s := { s with
      offset := s.offset + l.length, outTrace := s.outTrace ++ readOutputs s l.length }) hs hv
      (show s.offset + l.length < s.cfg.size by omega)
    rw [execAll_append hrun, execAll_cons hlast, readOutputs_succ, ← List.append_assoc]
    rfl

theorem mread_eq_requests {k : Nat} (hk : 1 ≤ k) :
    ∃ l, mread k = l ++ [.stDataNack] ∧ l.length = k ∧ ∀ i ∈ l, i ∈ requests := by
  refine ⟨[.stAddr] ++ List.replicate (k - 1) .stDataAck, rfl, by simp; omega, fun i hi => ?_⟩
  rcases List.mem_append.1 hi with hi | hi
  · simp [requests, List.mem_singleton.1 hi]
  · simp [requests, List.eq_of_mem_replicate hi]

end Sys2Proof.Machine

namespace Sys2Proof.Proofs

/-- Settles O7: `SR_ADDR` is the event step around `onStart`, and no other effect writes the read buffer. -/
theorem onlyAddressedForWriteCopiesStaging : Obligations.OnlyAddressedForWriteCopiesStaging :=
  ⟨fun _ hs => exec_srAddr_enabled hs, fun _ _ _ hi h => exec_transactionReadBuffer hi h⟩

/-- Settles O8: the event step around `receiveOffset`. -/
theorem firstReceivedByteIsTheOffset : Obligations.FirstReceivedByteIsTheOffset :=
  fun _ b hs ht => exec_srDataAck_awaitingOffset hs ht b

/-- Settles O9: the byte goes to `appendIndex`, which is 0 for a full batch and the end of the batch otherwise. -/
theorem dataByteIsAppendedToTheBatch : Obligations.DataByteIsAppendedToTheBatch := by
  intro s b hinv hs ht
  have hread := Memory.read_write hinv.pendingWrites_wf (appendIndex s.cfg.cap s.pendingCount) b
  refine ⟨_, exec_srDataAck_active hs ht b, fun hfull => ?_, fun hroom => ?_, rfl⟩
  · have hidx : appendIndex s.cfg.cap s.pendingCount = 0 := if_pos hfull
    rw [hidx] at hread ⊢
    exact ⟨rfl, (hread 0).trans (if_pos rfl), fun j hj => (hread j).trans (if_neg hj)⟩
  · have hidx : appendIndex s.cfg.cap s.pendingCount = s.pendingCount := if_neg hroom
    rw [hidx] at hread ⊢
    exact ⟨rfl, (hread _).trans (if_pos rfl), fun j hj => (hread j).trans (if_neg hj)⟩

/-- Settles O10: `onReceiveByte` raises in Idle, after its delay. -/
theorem dataByteInIdleRaisesRxIdle : Obligations.DataByteInIdleRaisesRxIdle :=
  fun _ b hs ht => exec_srDataAck_idle hs ht b

/-- Settles O11: the three ends of `onRequestByte`. -/
theorem requestedByteComesFromTheReadBuffer : Obligations.RequestedByteComesFromTheReadBuffer :=
  fun _ _ hi hs =>
    ⟨exec_request_enabled hi hs,
      fun hv => exec_request_faulted hi hs (onRequestByte_noOffset hv),
      fun hv hn => exec_request_faulted hi hs (onRequestByte_oob hv hn)⟩

/-- Settles O12: the three ends of `onStop`. -/
theorem stopAppliesTheBatchAtTheOffset : Obligations.StopAppliesTheBatchAtTheOffset := by
  intro s hinv hs
  have hw := hinv.staging_wf
  refine ⟨exec_srStop_empty hs, fun _ hn => ?_, exec_srStop_oob hs⟩
  exact ⟨s.stopped, exec_srStop_inRange hs hn, fun _ => State.stopped_staging_read_batch hw,
    fun _ => State.stopped_staging_read_outside hw, fun _ => State.mem_stopped_busTouched,
    State.stopped_busTouched_of_not_opened, rfl⟩

/-- Settles O39: data bytes keep the batch the last group of `CAP`, and the stop applies the batch. -/
theorem batchHoldsTheLastPartialGroup : Obligations.BatchHoldsTheLastPartialGroup := by
  intro s o ds hinv hs ht h0
  obtain ⟨q, pw, n, out, hrun, hgroup⟩ :=
    execAll_offset_dataBytes hs ht h0 hinv.pendingWrites_wf hinv.one_le_cap o ds
  have hbytes : ∀ j, j < n → ds[s.cfg.cap * ((ds.length - 1) / s.cfg.cap) + j]? = some (pw.read j) := by
    intro j hj
    have hne : ds ≠ [] := by
      rintro rfl
      have := hgroup.count_nil
      omega
    rw [(hgroup.div_mod hne).1]
    exact hgroup.bytes j hj
  refine ⟨_, hrun, hs.1, fun hnil => ?_, fun hne => ?_, fun hn => ?_⟩
  · subst hnil
    exact hgroup.count_nil
  · obtain ⟨hq, hcount⟩ := hgroup.div_mod hne
    refine ⟨hcount.symm, hbytes, ?_⟩
    rw [hq]
    exact hgroup.length.symm
  · refine ⟨_, exec_srStop_inRange hs hn, hs.1, fun j hj => ?_⟩
    have hland := (s.takeOffset o.toNat).withBatch_stopped_staging_read hinv.staging_wf pw out hj
    exact (hbytes j hj).trans (congrArg some hland.symm)

/-- Settles O40: the batch holds all the data when the stop applies it, for there is less than one group to discard. -/
theorem masterWriteLandsAtItsOffset : Obligations.MasterWriteLandsAtItsOffset := by
  intro s off ds hinv hs h0 hfits hsize
  obtain ⟨q, pw, n, out, hdata, hgroup⟩ := execAll_offset_dataBytes (s := { s with
    transactionReadBuffer := s.staging, txState := .awaitingOffset,
    outTrace := s.outTrace ++ [.delay s.cfg.delayUs, .ackNext] })
    hs rfl h0 hinv.pendingWrites_wf hinv.one_le_cap off ds
  obtain ⟨rfl, hbytes⟩ := hgroup.whole hfits
  have hrun := (execAll_cons (exec_srAddr_enabled hs)).trans hdata
  have hstop := exec_srStop_inRange
    (s := (s.beginTransaction.takeOffset off.toNat).withBatch pw ds.length out) hs hsize
  refine ⟨_, (execAll_append hrun).trans (execAll_cons hstop), hs.1, fun j hj => ?_, fun p hp => ?_, rfl, rfl, rfl⟩
  · have hland := (s.beginTransaction.takeOffset off.toNat).withBatch_stopped_staging_read hinv.staging_wf pw out hj
    exact (hbytes j hj).trans (congrArg some hland.symm)
  · exact State.stopped_staging_read_outside (s := (s.beginTransaction.takeOffset off.toNat).withBatch pw _ out)
      hinv.staging_wf hp

/-- Settles O41: `MREAD k` is `k` requests, then the refused byte's acknowledge. -/
theorem masterReadReturnsConsecutiveBytes : Obligations.MasterReadReturnsConsecutiveBytes := by
  intro s k hk hs hv hn
  obtain ⟨l, hmread, rfl, hl⟩ := mread_eq_requests hk
  have hrun := execAll_requests hs hv hl hn
  have hlast : exec .stDataNack _ = _ := (exec_eq_busEvent_skip (.inr (.inl rfl)) _).trans
    (busEvent_skip_enabled (s := { s with
      offset := s.offset + l.length, outTrace := s.outTrace ++ readOutputs s l.length }) hs)
  rw [hmread, execAll_append hrun, execAll_cons hlast]
  rfl

end Sys2Proof.Proofs
end

section
/-! Proofs of the family of the application: the calls' two guards (R124, R128), the commit byte by byte (R122, R123,
R130), and a turn in which nothing was written (R131). -/

open Sys2Proof Sys2Proof.Machine Sys2Proof.Claims

namespace Sys2Proof.Machine

/-! ### The guards of a call -/

/-- R148: a call that raises before any write leaves the one record. -/
theorem mainlineCall_faulted {body : State → Flow Unit} {s : State} {r : FaultRecord} (hf : s.faults = [])
    (hb : body s = .raised (s.addFault r)) : mainlineCall body s = .next { s with faults := [r] } := by
  rw [mainlineCall_raised hf hb, State.addFault, hf, List.nil_append]

/-- R124, R128: without an open turn a guarded call raises, whatever it would go on to do. -/
theorem mainlineCall_noTurn {call : Instr} {k : Unit → State → Flow Unit} {s : State} (hf : s.faults = [])
    (ht : s.appTurn ≠ .opened) :
    mainlineCall (fun u => (requireTurn call u).andThen k) s = .next { s with faults := [.appNoTurn call] } :=
  mainlineCall_faulted hf (by rw [requireTurn_raised ht, Flow.andThen_raised])

/-- R128: in an open turn an indexed call raises on an index outside the record, whatever it would go on to do. -/
theorem mainlineCall_badIndex {call : Instr} {i : Byte} {k : Unit → State → Flow Unit} {s : State}
    (hf : s.faults = []) (ht : s.appTurn = .opened) (hn : s.cfg.size ≤ i.toNat) :
    mainlineCall (fun u => (requireTurn call u).andThen fun _ v => (requireIndex i v).andThen k) s =
      .next { s with faults := [.appIndex i] } :=
  mainlineCall_faulted hf (by
    rw [requireTurn_opened ht, Flow.andThen_done, requireIndex_raised hn, Flow.andThen_raised])

/-- R120, R121: no turn state keeps `SNAPSHOT` from running. -/
theorem exec_snapshot_done {s : State} (hf : s.faults = []) : exec .snapshot s = .next s.openTurn :=
  mainlineCall_done hf rfl

/-- R127: `UWRITE` past both guards. -/
theorem exec_uwrite_done {s : State} {i : Byte} (hf : s.faults = []) (ht : s.appTurn = .opened)
    (hn : i.toNat < s.cfg.size) (v : Byte) : exec (.uwrite i v) s = .next (s.writeUser i.toNat v) :=
  mainlineCall_done hf (by
    rw [uwriteBody, requireTurn_opened ht, Flow.andThen_done, requireIndex_done hn, Flow.andThen_done, indexOfByte])

theorem State.Inv.userBuffer_wf {s : State} (h : s.Inv) : s.userBuffer.wf = true :=
  (Memory.fits_iff.1 h.user).1

/-! ### The commit -/

/-- R123: the search finds nothing exactly when no position is in conflict. -/
theorem firstConflict_eq_none_iff_conflictAt {s : State} :
    firstConflict s.cfg.size s.userBuffer s.userBufferSnapshot s.busTouched = none ↔ ∀ p, ¬ conflictAt s p := by
  simp only [firstConflict_none, conflictAt, not_and]

/-- R123, R149: the search finds the lowest position in conflict. -/
theorem firstConflict_eq_some_of_conflictAt {s : State} {p : Nat} (hp : conflictAt s p)
    (hlow : ∀ q, q < p → ¬ conflictAt s q) :
    firstConflict s.cfg.size s.userBuffer s.userBufferSnapshot s.busTouched = some p := by
  obtain ⟨hn, hchanged, htouched⟩ := hp
  exact firstConflict_some.2
    ⟨hn, hchanged, htouched, fun q hq hc hm => hlow q hq ⟨hq.trans hn, hc, hm⟩⟩

/-- R122: the state after a commit that completes. -/
def State.committed (s : State) : State :=
  s.closeTurn (commitBytes s.userBuffer s.userBufferSnapshot s.cfg.size s.staging)

/-- R122: past the turn guard a commit is the search for a conflict and the writes. -/
theorem commitBody_opened {s : State} (ht : s.appTurn = .opened) : commitBody s = commitDiff s := by
  rw [commitBody, requireTurn_opened ht, Flow.andThen_done]

theorem exec_commit_done {s : State} (hf : s.faults = []) (ht : s.appTurn = .opened)
    (hc : firstConflict s.cfg.size s.userBuffer s.userBufferSnapshot s.busTouched = none) :
    exec .commit s = .next s.committed :=
  mainlineCall_done hf (by simp only [commitBody_opened ht, commitDiff, hc, State.committed])

theorem exec_commit_conflict {s : State} {p : Nat} (hf : s.faults = []) (ht : s.appTurn = .opened)
    (hc : firstConflict s.cfg.size s.userBuffer s.userBufferSnapshot s.busTouched = some p) :
    exec .commit s = .next { s with faults := [.conflict p] } :=
  mainlineCall_faulted hf (by simp only [commitBody_opened ht, commitDiff, hc, raise_eq])

/-- R122–R124: a commit that is given a next state completes or only records a fault. -/
theorem exec_commit_next {s t : State} (h : exec .commit s = .next t) :
    t = s.committed ∨ ∃ r, t = s.addFault r := by
  obtain ⟨-, h⟩ := mainlineCall_next h
  rcases commit_cases s with ⟨-, e⟩ | ⟨-, p, -, e⟩ | ⟨-, -, e⟩
  · exact .inr ⟨.appNoTurn .commit, Eq.symm (by simpa [e] using h)⟩
  · exact .inr ⟨.conflict p, Eq.symm (by simpa [e] using h)⟩
  · exact .inl (Eq.symm (by simpa [e, State.committed] using h))

/-- R122: a changed byte is written. -/
theorem State.committed_staging_read_changed {s : State} (hw : s.staging.wf = true) {p : Nat}
    (hn : p < s.cfg.size) (hp : s.userBuffer.read p ≠ s.userBufferSnapshot.read p) :
    s.committed.staging.read p = s.userBuffer.read p :=
  (commitBytes_read hw _ _ _ _).trans (if_pos ⟨hn, hp⟩)

/-- R122, R130: every other byte is left alone. -/
theorem State.committed_staging_read_unchanged {s : State} (hw : s.staging.wf = true) {p : Nat}
    (hp : s.cfg.size ≤ p ∨ s.userBuffer.read p = s.userBufferSnapshot.read p) :
    s.committed.staging.read p = s.staging.read p :=
  (commitBytes_read hw _ _ _ _).trans (if_neg fun ⟨hn, hne⟩ => hp.elim (Nat.not_le.2 hn) hne)

/-! ### A turn without writes -/

/-- The application has opened a turn and its working copy still equals the snapshot (R131). -/
structure State.TurnUnwritten (s : State) : Prop where
  opened : s.appTurn = .opened
  unwritten : s.userBuffer = s.userBufferSnapshot

/-- R120: `SNAPSHOT` opens a turn with nothing written in it. -/
theorem turnUnwritten_of_snapshot {s t : State} (h : exec .snapshot s = .next t) : t.TurnUnwritten := by
  rw [exec_snapshot_done (exec_effect h).1] at h
  cases h
  exact ⟨rfl, rfl⟩

/-- R43: of all the ways an input ends, a bus event's leave the turn and both application copies as they are. -/
theorem Effect.turnUnwritten {i : Instr} {s t : State} (h : Effect i s t) (hi : i.isBusEvent = true)
    (hs : s.TurnUnwritten) : t.TurnUnwritten := by
  obtain ⟨hopened, hunwritten⟩ := hs
  cases h with
  | snapshot | commit | conflict | commitNoTurn | uread | ureadIndex | ureadNoTurn | uwrite | uwriteIndex
  | uwriteNoTurn | init | doubleInit | badAddress => cases hi
  | _ => exact ⟨hopened, hunwritten⟩

/-- R131: any bus events leave the turn unwritten. -/
theorem execAll_turnUnwritten {l : List Instr} {s t : State} (hl : ∀ i ∈ l, i.isBusEvent = true)
    (h : execAll l s = .next t) (hs : s.TurnUnwritten) : t.TurnUnwritten := by
  induction l generalizing s with
  | nil => cases h; exact hs
  | cons i is ih =>
    obtain ⟨u, hu, ht⟩ := execAll_cons_next h
    obtain ⟨hi, his⟩ := List.forall_mem_cons.1 hl
    exact ih his ht ((exec_effect hu).2.turnUnwritten hi hs)

/-- R131: the commit of an unwritten turn has no conflict and no byte to write, so it only closes the turn. -/
theorem exec_commit_turnUnwritten {s : State} (hf : s.faults = []) (hs : s.TurnUnwritten) :
    exec .commit s = .next { s with appTurn := .closed } := by
  obtain ⟨hopened, hunwritten⟩ := hs
  have hfree : firstConflict s.cfg.size s.userBuffer s.userBufferSnapshot s.busTouched = none := by
    rw [hunwritten, firstConflict_self]
  have hsame : commitBytes s.userBuffer s.userBufferSnapshot s.cfg.size s.staging = s.staging := by
    rw [hunwritten, commitBytes_self]
  rw [exec_commit_done hf hopened hfree, State.committed, hsame, State.closeTurn]

end Sys2Proof.Machine

namespace Sys2Proof.Proofs

/-- Settles O38: `SNAPSHOT` opens an unwritten turn, bus events keep it unwritten, and its commit only closes it. -/
theorem turnWithoutWritesCommitsNothing : Obligations.TurnWithoutWritesCommitsNothing :=
  fun _ _ _ _ hl hsnapshot hrun hf =>
    exec_commit_turnUnwritten hf (execAll_turnUnwritten hl hrun (turnUnwritten_of_snapshot hsnapshot))

/-- Settles O22: the three ends of `COMMIT`. -/
theorem commitWritesExactlyTheChangedBytes : Obligations.CommitWritesExactlyTheChangedBytes := by
  intro s hinv hf
  have hw := hinv.staging_wf
  refine ⟨fun ht hfree => ?_, fun p ht hp hlow => ?_, mainlineCall_noTurn hf⟩
  · exact ⟨s.committed, exec_commit_done hf ht (firstConflict_eq_none_iff_conflictAt.2 hfree),
      fun _ => State.committed_staging_read_changed hw, fun _ => State.committed_staging_read_unchanged hw, rfl⟩
  · exact exec_commit_conflict hf ht (firstConflict_eq_some_of_conflictAt hp hlow)

/-- Settles O37: a commit that completes writes changed bytes only, and one that raises writes none. -/
theorem commitKeepsUnchangedBytes : Obligations.CommitKeepsUnchangedBytes := by
  intro s t p hinv h hp
  obtain rfl | ⟨r, rfl⟩ := exec_commit_next h
  · exact State.committed_staging_read_unchanged hinv.staging_wf (.inr hp)
  · rw [State.addFault_staging]

/-- Settles O20: in every turn state the one update is the whole next state. -/
theorem snapshotCopiesStagingInEveryTurnState : Obligations.SnapshotCopiesStagingInEveryTurnState :=
  fun _ hf => exec_snapshot_done hf

/-- Settles O24: the write past both guards, and the two guards of `UWRITE` and of `UREAD`. -/
theorem uwriteWritesOneByteOfUserBuffer : Obligations.UwriteWritesOneByteOfUserBuffer := by
  intro s i v hinv hf
  refine ⟨fun ht hn => ?_, mainlineCall_noTurn hf, mainlineCall_badIndex hf, mainlineCall_noTurn hf,
    mainlineCall_badIndex hf⟩
  have hread := Memory.read_write hinv.userBuffer_wf i.toNat v
  exact ⟨_, exec_uwrite_done hf ht hn v, (hread i.toNat).trans (if_pos rfl),
    fun p hp => (hread p).trans (if_neg hp), rfl⟩

end Sys2Proof.Proofs
end

section
/-! Proofs of the family of the platform interface: what a step puts into the output trace (R138), and the one
registration (R133, R134, R136). -/

open Sys2Proof Sys2Proof.Machine Sys2Proof.Claims

namespace Sys2Proof.Machine

/-! ### The outputs of one input -/

/-- R138 from the list of effects: the outputs an input appends are delays, transmitted bytes, acknowledges and bus
recoveries. -/
theorem Effect.outTrace_append {i : Instr} {s t : State} (h : Effect i s t) :
    ∃ l, t.outTrace = s.outTrace ++ l ∧ Output.refuseNext ∉ l := by
  cases h with
  | start | offset | data | stopEmpty | stopApply =>
    exact ⟨[.delay s.cfg.delayUs, .ackNext], by simp [applyBatch_eq], by simp⟩
  | rxIdle | writeOob | readNoOffset | readOob => exact ⟨[.delay s.cfg.delayUs], rfl, by simp⟩
  | transmit =>
    exact ⟨[.delay s.cfg.delayUs, .txByte (s.transactionReadBuffer.read s.offset), .ackNext], by simp, by simp⟩
  | dataNack | acknowledged => exact ⟨[.ackNext], rfl, by simp⟩
  | busErrorAck => exact ⟨[.recoverBusError, .ackNext], by simp, by simp⟩
  | busErrorSilent => exact ⟨[.recoverBusError], rfl, by simp⟩
  | snapshot | commit | conflict | commitNoTurn | uread | ureadIndex | ureadNoTurn | uwrite | uwriteIndex
  | uwriteNoTurn | init | doubleInit | badAddress => exact ⟨[], by simp, by simp⟩

/-! ### The ends of `INIT` -/

/-- R136: the range of the legal addresses. -/
theorem legalAddress_iff {a : Addr7} : legalAddress a = true ↔ 0x08 ≤ a.toNat ∧ a.toNat ≤ 0x77 := by
  rw [legalAddress, Bool.and_eq_true, decide_eq_true_iff, decide_eq_true_iff]

/-- R133: the first `INIT` with a legal address. -/
theorem exec_init_done {s : State} {a : Addr7} (hf : s.faults = []) (hinit : s.initDone = false)
    (ha : legalAddress a = true) : exec (.init a) s = .next (s.register a) :=
  mainlineCall_done hf (by simp [initBody, hinit, ha])

/-- R134: a second `INIT` raises whatever its address. -/
theorem exec_init_double {s : State} (hf : s.faults = []) (hinit : s.initDone = true) (a : Addr7) :
    exec (.init a) s = .next { s with faults := [.doubleInit a] } :=
  mainlineCall_faulted hf (if_pos hinit)

/-- R136: the first `INIT` with an address that is not legal. -/
theorem exec_init_badAddress {s : State} {a : Addr7} (hf : s.faults = []) (hinit : s.initDone = false)
    (ha : ¬ legalAddress a = true) : exec (.init a) s = .next { s with faults := [.badAddress a] } :=
  mainlineCall_faulted hf (by simp [initBody, hinit, ha])

end Sys2Proof.Machine

namespace Sys2Proof.Proofs

/-- Settles O16: every effect of an input appends outputs, none of them `RefuseNext`. -/
theorem refuseNextIsNeverEmitted : Obligations.RefuseNextIsNeverEmitted :=
  fun _ _ _ h => (exec_effect h).2.outTrace_append

/-- Settles O25: the three ends of `INIT`, told apart by `initDone` and the range of the legal addresses. -/
theorem initRegistersOnce : Obligations.InitRegistersOnce := by
  intro s a hf
  refine ⟨fun hinit hlow hhigh => ?_, fun hinit => exec_init_double hf hinit a, fun hinit hout => ?_⟩
  · exact exec_init_done hf hinit (legalAddress_iff.2 ⟨hlow, hhigh⟩)
  · exact exec_init_badAddress hf hinit fun hlegal => by
      have hrange := legalAddress_iff.1 hlegal
      omega

end Sys2Proof.Proofs
end

section
/-! Proofs of the remaining statements about the encoding: decoding undoes encoding (R65, R67, R69), the bits a bus word
ignores (R65, R66), and the reserved call words (R73). -/

open Sys2Proof Sys2Proof.Claims

namespace Sys2Proof

/-! ### Encoded words decode -/

/-- R68: every code of the table is its own masked status. -/
theorem EventCodes.masked_of_mem {c : EventCodes} (hc : c.wf = true) {k : Byte} (hk : k ∈ c.toList) :
    k &&& 0xF8#8 = k :=
  (EventCodes.wf_iff.1 hc).1 k hk

/-- The word of a row of the table of R67 decodes to the event of that row. -/
theorem decodeBus_busWord {c : EventCodes} (hc : c.wf = true) {b k : Byte} {i : Instr} (hrow : ⟨k, i⟩ ∈ busRows c b) :
    decodeBus c (busWord b k) = i := by
  have hk : k ∈ c.toList := by
    rw [← busRows_keys c b]
    exact List.mem_keys_of_mem hrow
  refine decodeBus_of_mem_busRows hc ⟨k, i⟩ ?_ (statusOf_busWord (EventCodes.masked_of_mem hc hk))
  rwa [dataOf_busWord]

/-- R68: a status that is no code decodes to `OTHER` with that status. -/
theorem decodeBus_busWord_other {c : EventCodes} {status : BitVec 5} (hw : otherStatusByte status ∉ c.toList) :
    decodeBus c (busWord 0 (otherStatusByte status)) = .other status := by
  have hstatus := statusOf_busWord (d := 0) (otherStatusByte_masked status)
  rw [decodeBus_of_not_mem_toList (by rwa [hstatus]), status_busWord_other]

theorem Instr.wf_other {c : EventCodes} {status : BitVec 5} :
    Instr.wf c (.other status) = true ↔ otherStatusByte status ∉ c.toList := by
  simp [Instr.wf]

/-! The calls of R69, each word read back field by field. -/

theorem decodeCall_snapshot : decodeCall (callWord 0 0 0x0) = .ok .snapshot := by decide

theorem decodeCall_commit : decodeCall (callWord 0 0 0x1) = .ok .commit := by decide

theorem decodeCall_uread (i : Byte) : decodeCall (callWord 0 i 0x2) = .ok (.uread i) := by
  simp [decodeCall]

theorem decodeCall_uwrite (i v : Byte) : decodeCall (callWord v i 0x3) = .ok (.uwrite i v) := by
  simp [decodeCall]

theorem decodeCall_init (addr : Addr7) : decodeCall (callWord 0 (addr.setWidth 8) 0x8) = .ok (.init addr) := by
  simp [decodeCall]

/-! ### The ignored bits of a bus word -/

/-- R65: the mask leaves the status field, bits `[7:3]`, and nothing else. -/
theorem statusOf_eq_otherStatusByte (w : BusWord) : statusOf w = otherStatusByte (w.extractLsb' 3 5) := by
  have hmask : ∀ x : Byte, x &&& 0xF8#8 = otherStatusByte (x.extractLsb' 3 5) := by decide +revert
  have hfield : w.extractLsb' 3 5 = (w.extractLsb' 0 8).extractLsb' 3 5 := by
    ext i
    simp
  rw [statusOf, hmask, hfield]

/-- The input with its data byte, if it carries one, replaced (R66). -/
def Instr.withDataByte (b : Byte) : Instr → Instr
  | .srDataAck _ => .srDataAck b
  | .srDataNack _ => .srDataNack b
  | i => i

theorem Instr.withDataByte_eq_self {i : Instr} (hack : ∀ b, i ≠ .srDataAck b) (hnack : ∀ b, i ≠ .srDataNack b)
    (b : Byte) : i.withDataByte b = i := by
  cases i with
  | srDataAck d => exact absurd rfl (hack d)
  | srDataNack d => exact absurd rfl (hnack d)
  | _ => rfl

/-- R65, R66: of a word, the decoder reads the status field, and the data byte as the operand of the data events. -/
theorem decodeBus_eq_withDataByte (c : EventCodes) {w w' : BusWord} (h : w.extractLsb' 3 5 = w'.extractLsb' 3 5) :
    decodeBus c w = (decodeBus c w').withDataByte (dataOf w) := by
  simp only [decodeBus, statusOf_eq_otherStatusByte, h, apply_ite (Instr.withDataByte (dataOf w))]
  rfl

/-! ### The reserved call words -/

/-- The operations that R69 lists, as a range. -/
theorem reservedOp_iff : ∀ op : BitVec 4,
    ((4 ≤ op.toNat ∧ op.toNat ≤ 7) ∨ 9 ≤ op.toNat) ↔ op ≠ 0x0 ∧ op ≠ 0x1 ∧ op ≠ 0x2 ∧ op ≠ 0x3 ∧ op ≠ 0x8 := by
  decide

theorem argOf_bit7 (w : CallWord) : (argOf w).getLsbD 7 = w.getLsbD 15 := by
  simp [argOf]

/-- A choice between two results is an error exactly when the chosen one is. -/
theorem exists_error_ite {ε α : Type} (p : Prop) [Decidable p] (x y : Except ε α) :
    (∃ e, (if p then x else y) = .error e) ↔ if p then ∃ e, x = .error e else ∃ e, y = .error e := by
  split
  · rfl
  · rfl

/-- R73: the words the call decoder refuses, in the fields of R69. -/
theorem decodeCall_error_iff (w : CallWord) :
    (∃ e, decodeCall w = .error e) ↔
      (opOf w ≠ 0x0 ∧ opOf w ≠ 0x1 ∧ opOf w ≠ 0x2 ∧ opOf w ≠ 0x3 ∧ opOf w ≠ 0x8) ∨ reservedOf w ≠ 0 ∨
        ((opOf w = 0x0 ∨ opOf w = 0x1) ∧ (argOf w ≠ 0 ∨ valueOf w ≠ 0)) ∨ (opOf w = 0x2 ∧ valueOf w ≠ 0) ∨
        (opOf w = 0x8 ∧ (valueOf w ≠ 0 ∨ (argOf w).getLsbD 7 = true)) := by
  simp only [decodeCall, exists_error_ite, reduceCtorEq, exists_false, Except.error.injEq, exists_eq']
  by_cases hr : reservedOf w = 0#4
  · by_cases h0 : opOf w = 0x0#4
    · simp [hr, h0, imp_iff_not_or]
    by_cases h1 : opOf w = 0x1#4
    · simp [hr, h1, imp_iff_not_or]
    by_cases h2 : opOf w = 0x2#4
    · simp [hr, h2]
    by_cases h3 : opOf w = 0x3#4
    · simp [hr, h3]
    by_cases h8 : opOf w = 0x8#4
    · simp [hr, h8, imp_iff_not_or]
    · simp [hr, h0, h1, h2, h3, h8]
  · simp [hr]

end Sys2Proof

namespace Sys2Proof.Proofs

/-- Settles O6: a bus word reads back as its row of the table of R67, a call word field by field. -/
theorem decodeOfEncodeIsTheInput : Obligations.DecodeOfEncodeIsTheInput := by
  intro c i hc hi
  cases i with
  | other status => exact congrArg _ (decodeBus_busWord_other (Instr.wf_other.1 hi))
  | snapshot => exact decodeCall_snapshot
  | commit => exact decodeCall_commit
  | uread i => exact decodeCall_uread i
  | uwrite i v => exact decodeCall_uwrite i v
  | init addr => exact decodeCall_init addr
  | _ => exact congrArg _ (decodeBus_busWord hc (by simp [busRows]))

/-- Settles O4: the decoder reads the status field and, for a data event, the data byte. -/
theorem ignoredBitsOfABusWordChangeNothing : Obligations.IgnoredBitsOfABusWordChangeNothing := by
  intro c w w' h
  have hdecode := decodeBus_eq_withDataByte c h
  refine ⟨fun hdata => ?_, fun hack hnack => ?_⟩
  · calc decodeBus c w
      _ = (decodeBus c w').withDataByte (dataOf w') := hdecode.trans (congrArg (Instr.withDataByte · _) hdata)
      _ = decodeBus c w' := (decodeBus_eq_withDataByte c rfl).symm
  · rw [decodeBus_eq_withDataByte c h.symm, Instr.withDataByte_eq_self hack hnack]

/-- Settles O2: the decoder evaluated on each word. -/
theorem writtenOutWordsDecode : Obligations.WrittenOutWordsDecode := by
  refine ⟨?_, ?_, ?_, ?_, ?_, ?_, ?_, ?_⟩ <;> decide

end Sys2Proof.Proofs
end

section
/-! Proofs about one step: what is fetched from the two ports (R17, R64, R135, R153), and what the step then does with it
(R73, R81, R82, R167). -/

open Sys2Proof Sys2Proof.Machine Sys2Proof.Claims

namespace Sys2Proof.Machine

/-! ### What is fetched -/

/-- After `INIT`, with no call to make, the bus agent moves. -/
theorem fetch_bus {s : State} {x : BusInput} {xs : List BusInput} (hinit : s.initDone = true)
    (hbus : s.busPort = x :: xs) (hcall : s.callPort = []) : fetch s = fetchBus s x xs := by
  simp only [fetch, hinit, hbus, hcall]

/-- R135: before `INIT`, or with nothing on the bus, the application agent moves. -/
theorem fetch_call {s : State} {w : CallWord} {ws : List CallWord} (hwait : s.initDone = false ∨ s.busPort = [])
    (hcall : s.callPort = w :: ws) : fetch s = fetchCall s w ws := by
  obtain hinit | hbus := hwait
  · simp only [fetch, hinit, hcall]
  · cases hinit : s.initDone with
    | false => simp only [fetch, hinit, hcall]
    | true => simp only [fetch, hinit, hbus, hcall]

/-- R153: after `INIT`, with an input on both ports, either agent may move. -/
theorem fetch_both {s : State} {x : BusInput} {xs : List BusInput} {w : CallWord} {ws : List CallWord}
    (hinit : s.initDone = true) (hbus : s.busPort = x :: xs) (hcall : s.callPort = w :: ws) :
    fetch s = fetchBus s x xs ∨ fetch s = fetchCall s w ws := by
  simp only [fetch, hinit, hbus, hcall]
  exact ite_eq_or_eq _ _ _

/-- R135, R167: before `INIT` and with no call to make nothing is fetched. -/
theorem fetch_nothing {s : State} (hinit : s.initDone = false) (hcall : s.callPort = []) : fetch s = .nothing := by
  simp only [fetch, hinit, hcall]

theorem fetchBus_run {s : State} {x : BusInput} {i : Instr} (hx : busInstr s x = some i) (xs : List BusInput) :
    fetchBus s x xs = .run i (s.takeBus xs) := by
  simp only [fetchBus, hx]

theorem fetchBus_ignored {s : State} {x : BusInput} (hx : busInstr s x = none) (xs : List BusInput) :
    fetchBus s x xs = .ignored (s.takeBus xs) := by
  simp only [fetchBus, hx]

theorem fetchCall_run {w : CallWord} {i : Instr} (hw : decodeCall w = .ok i) (s : State) (ws : List CallWord) :
    fetchCall s w ws = .run i (s.takeCall ws) := by
  simp only [fetchCall, hw]

theorem fetchCall_reserved {w : CallWord} {e : DecodeError} (hw : decodeCall w = .error e) (s : State)
    (ws : List CallWord) : fetchCall s w ws = .reserved e := by
  simp only [fetchCall, hw]

/-! ### What the step does with it -/

theorem step_run {s t : State} {i : Instr} (hf : s.faults = []) (h : fetch s = .run i t) : step s = exec i t := by
  rw [step, whenNoFault_nil hf, h]

theorem step_ignored {s t : State} (hf : s.faults = []) (h : fetch s = .ignored t) : step s = .next t := by
  rw [step, whenNoFault_nil hf, h]

theorem step_reserved {s : State} {e : DecodeError} (hf : s.faults = []) (h : fetch s = .reserved e) :
    step s = .refused (.reservedCall e) := by
  rw [step, whenNoFault_nil hf, h]

theorem step_nothing {s : State} (hf : s.faults = []) (h : fetch s = .nothing) : step s = .refused .noInput := by
  rw [step, whenNoFault_nil hf, h]

/-- The machine takes the bus input `x`: it runs the event delivered, or nothing happens (R82). -/
theorem step_fetchBus {s : State} {x : BusInput} {xs : List BusInput} (hf : s.faults = [])
    (h : fetch s = fetchBus s x xs) :
    (∃ i, busInstr s x = some i ∧ step s = exec i (s.takeBus xs)) ∨
      (busInstr s x = none ∧ step s = .next (s.takeBus xs)) := by
  cases hx : busInstr s x with
  | some i => exact .inl ⟨i, rfl, step_run hf (h.trans (fetchBus_run hx xs))⟩
  | none => exact .inr ⟨rfl, step_ignored hf (h.trans (fetchBus_ignored hx xs))⟩

/-! ### Address bytes -/

theorem busInstr_address_match {s : State} {a : Byte} (hown : addressField a = s.ownAddr) :
    busInstr s (.address a) = some (if readDirection a then .stAddr else .srAddr) := if_pos hown

theorem busInstr_address_mismatch {s : State} {a : Byte} (hown : addressField a ≠ s.ownAddr) :
    busInstr s (.address a) = none := if_neg hown

/-- R81: an address byte that matches, alone on the ports, is the event of its direction. -/
theorem step_address_match {s : State} {a : Byte} {xs : List BusInput} (hs : Enabled s)
    (hbus : s.busPort = .address a :: xs) (hcall : s.callPort = []) (hown : addressField a = s.ownAddr) :
    step s = exec (if readDirection a then .stAddr else .srAddr) (s.takeBus xs) :=
  step_run hs.1 ((fetch_bus hs.2 hbus hcall).trans (fetchBus_run (busInstr_address_match hown) xs))

/-- R82: one that does not match is taken and changes nothing else. -/
theorem step_address_mismatch {s : State} {a : Byte} {xs : List BusInput} (hs : Enabled s)
    (hbus : s.busPort = .address a :: xs) (hcall : s.callPort = []) (hown : addressField a ≠ s.ownAddr) :
    step s = .next (s.takeBus xs) :=
  step_ignored hs.1 ((fetch_bus hs.2 hbus hcall).trans (fetchBus_ignored (busInstr_address_mismatch hown) xs))

/-! ### The two kinds of input -/

/-- R84, R135: every bus event is an event step around some action. -/
theorem exec_eq_busEvent {i : Instr} (hi : i.isBusEvent = true) (s : State) :
    ∃ body ack, exec i s = busEvent body ack s := by
  cases i with
  | snapshot | commit | uread | uwrite | init => cases hi
  | _ => exact ⟨_, _, rfl⟩

/-- R119: every other input is a mainline call. -/
theorem exec_eq_mainlineCall {i : Instr} (hi : i.isBusEvent = false) (s : State) :
    ∃ body, exec i s = mainlineCall body s := by
  cases i with
  | snapshot | commit | uread | uwrite | init => exact ⟨_, rfl⟩
  | _ => cases hi

end Sys2Proof.Machine

namespace Sys2Proof.Proofs

/-- Settles O1: the input that is fetched is run; with both ports filled the fetch is one of the two. -/
theorem stepRunsTheDecodedInput : Obligations.StepRunsTheDecodedInput := by
  intro s hf
  refine ⟨fun w xs hinit hbus hcall => ?_, fun w ws i hwait hcall hw => ?_, fun b xs w ws i hinit hbus hcall hw => ?_⟩
  · exact step_run hf ((fetch_bus hinit hbus hcall).trans (fetchBus_run rfl xs))
  · exact step_run hf ((fetch_call hwait hcall).trans (fetchCall_run hw s ws))
  · exact (fetch_both hinit hbus hcall).imp (fun h => step_run hf (h.trans (fetchBus_run rfl xs)))
      fun h => step_run hf (h.trans (fetchCall_run hw s ws))

/-- Settles O5: the refused words by operation, and the fetch that finds one at the head of the call port. -/
theorem reservedCallWordsAreRefused : Obligations.ReservedCallWordsAreRefused := by
  intro w
  refine ⟨?_, fun s e ws hw hf hcall hwait => ?_, fun s e ws x xs hw hf hcall hinit hbus => ?_⟩
  · rw [decodeCall_error_iff, ← reservedOp_iff, argOf_bit7, or_assoc]
    rfl
  · exact step_reserved hf ((fetch_call hwait hcall).trans (fetchCall_reserved hw s ws))
  · obtain h | h := fetch_both hinit hbus hcall
    · exact .inr (step_fetchBus hf h)
    · exact .inl (step_reserved hf (h.trans (fetchCall_reserved hw s ws)))

/-- Settles O17: the event step waits for `INIT`, and the fetch leaves the bus port alone before it. -/
theorem noBusEventBeforeInit : Obligations.NoBusEventBeforeInit := by
  refine ⟨fun i s hi hf hinit => ?_, fun s hf hinit hcall => step_nothing hf (fetch_nothing hinit hcall)⟩
  obtain ⟨body, ack, h⟩ := exec_eq_busEvent hi s
  rw [h, busEvent_disabled hf hinit]

/-- Settles O18: the direction bit picks one of the two events of a matching byte. -/
theorem matchingAddressByteDeliversItsEvent : Obligations.MatchingAddressByteDeliversItsEvent := by
  intro s a xs hs hbus hcall hown
  have hstep := step_address_match hs hbus hcall hown
  refine ⟨fun hwrite => ?_, fun hread => ?_⟩
  · rw [hstep, readDirection, hwrite]
    rfl
  · rw [hstep, readDirection, hread]
    rfl

/-- Settles O19: under the invariant a reserved address is not the block's own, which is a legal one. -/
theorem unmatchedAddressByteDeliversNoEvent : Obligations.UnmatchedAddressByteDeliversNoEvent := by
  intro s a xs hs hbus hcall
  refine ⟨step_address_mismatch hs hbus hcall, fun hinv hreserved => step_address_mismatch hs hbus hcall ?_⟩
  intro hown
  have hlegal := legalAddress_iff.1 (hinv.address hs.2)
  rw [← hown, addressField] at hlegal
  omega

end Sys2Proof.Proofs
end

section
/-! Proofs about the invariant (R38): each named update of the state keeps it, under the condition its caller meets; every
effect of an input is made of such updates; so every step keeps it, and reset meets it. -/

open Sys2Proof Sys2Proof.Machine Sys2Proof.Claims

namespace Sys2Proof.Machine

/-! ### The named updates keep the invariant -/

theorem State.Inv.size_le {s : State} (h : s.Inv) : s.cfg.size ≤ 256 := by
  have hcfg := h.cfg
  simp only [Config.wf, Bool.and_eq_true, decide_eq_true_eq] at hcfg
  obtain ⟨⟨⟨-, hsize⟩, -⟩, -⟩ := hcfg
  exact hsize

/-- R104: the next byte of the batch has a cell. -/
theorem State.Inv.appendIndex_lt {s : State} (h : s.Inv) :
    appendIndex s.cfg.cap s.pendingCount < s.cfg.cap := by
  have hcap := h.one_le_cap
  have hcount := h.count
  rw [appendIndex]
  split
  · exact hcap
  · omega

theorem State.Inv.emit {s : State} (h : s.Inv) {o : Output} (ho : o ≠ .refuseNext) : (s.emit o).Inv :=
  { h with noRefuse := by simp [h.noRefuse, ho.symm] }

theorem State.Inv.beginCallback {s : State} (h : s.Inv) : (beginCallback s).Inv := h.emit (by simp)

theorem State.Inv.addFault {s : State} (h : s.Inv) (hf : s.faults = []) (r : FaultRecord) : (s.addFault r).Inv :=
  { h with oneFault := by simp [hf] }

theorem State.Inv.beginTransaction {s : State} (h : s.Inv) : s.beginTransaction.Inv :=
  { h with readBuffer := h.staging, active := by simp, idle := by simp }

theorem State.Inv.takeOffset {s : State} (h : s.Inv) (b : Byte) : (s.takeOffset b.toNat).Inv :=
  { h with
    offset := by have := b.isLt; simp only [State.takeOffset_offset]; omega
    active := by simp
    idle := by simp
    pending := by simp }

theorem State.Inv.appendAt {s : State} (h : s.Inv) (hactive : s.txState = .active) {n : Nat} (hn : n < s.cfg.cap)
    (b : Byte) : (s.appendAt n b).Inv :=
  { h with
    count := hn
    batch := Memory.fits_write h.batch hn b
    idle := by simp [hactive]
    pending := fun _ => h.active hactive }

theorem State.Inv.advanceOffset {s : State} (h : s.Inv) (hn : s.offset < s.cfg.size) : s.advanceOffset.Inv :=
  { h with offset := by have := h.size_le; simp only [State.advanceOffset_offset]; omega }

theorem State.Inv.applyBatch {s : State} (h : s.Inv) (hn : s.offset + s.pendingCount ≤ s.cfg.size) :
    s.applyBatch.Inv :=
  { h with
    count := Nat.zero_le _
    idle := fun _ => rfl
    pending := fun h0 => absurd h0 (Nat.lt_irrefl 0)
    staging := applyBytes_fits h.staging _ hn
    touched := by
      rw [applyBatch_eq, State.landBatch_busTouched]
      split
      · exact touchRange_fits h.touched hn
      · exact h.touched }

theorem State.Inv.goIdle {s : State} (h : s.Inv) (h0 : s.pendingCount = 0) : s.goIdle.Inv :=
  { h with active := by simp, idle := fun _ => h0 }

theorem State.Inv.openTurn {s : State} (h : s.Inv) : s.openTurn.Inv :=
  { h with user := h.staging, snap := h.staging, touched := rfl }

theorem State.Inv.closeTurn {s : State} (h : s.Inv) {m : Memory} (hm : m.fits s.cfg.size = true) :
    (s.closeTurn m).Inv :=
  { h with staging := hm }

theorem State.Inv.writeUser {s : State} (h : s.Inv) {i : Nat} (hi : i < s.cfg.size) (v : Byte) :
    (s.writeUser i v).Inv :=
  { h with user := Memory.fits_write h.user hi v }

theorem State.Inv.giveResult {s : State} (h : s.Inv) (b : Byte) : (s.giveResult b).Inv := { h with }

theorem State.Inv.register {s : State} (h : s.Inv) {a : Addr7} (ha : legalAddress a = true) : (s.register a).Inv :=
  { h with address := fun _ => ha }

theorem State.Inv.takeBus {s : State} (h : s.Inv) (xs : List BusInput) : (s.takeBus xs).Inv := { h with }

theorem State.Inv.takeCall {s : State} (h : s.Inv) (ws : List CallWord) : (s.takeCall ws).Inv := { h with }

/-! ### Inputs and steps keep the invariant -/

/-- R38 from the list of effects. -/
theorem Effect.inv {i : Instr} {s t : State} (h : Effect i s t) (hf : s.faults = []) (hinv : s.Inv) : t.Inv := by
  have hack : Output.ackNext ≠ .refuseNext := by decide
  have hcall := hinv.beginCallback
  cases h with
  | start => exact hcall.beginTransaction.emit hack
  | offset _ b => exact (hcall.takeOffset b).emit hack
  | data _ b _ hactive => exact (hcall.appendAt hactive hinv.appendIndex_lt b).emit hack
  | stopEmpty _ _ h0 => exact (hcall.goIdle h0).emit hack
  | stopApply _ _ _ hn => exact ((hcall.applyBatch hn).goIdle rfl).emit hack
  | transmit _ _ _ _ _ hn => exact ((hcall.advanceOffset hn).emit (by simp)).emit hack
  | rxIdle | writeOob | readNoOffset | readOob => exact hcall.addFault hf _
  | dataNack | acknowledged => exact hinv.emit hack
  | busErrorAck => exact (hinv.emit (by simp)).emit hack
  | busErrorSilent => exact hinv.emit (by simp)
  | snapshot => exact hinv.openTurn
  | commit => exact hinv.closeTurn (commitBytes_fits hinv.staging _ _ le_rfl)
  | uread => exact hinv.giveResult _
  | uwrite _ _ _ _ hn => exact hinv.writeUser hn _
  | init _ _ _ hl => exact hinv.register hl
  | conflict | commitNoTurn | ureadIndex | ureadNoTurn | uwriteIndex | uwriteNoTurn | doubleInit | badAddress =>
    exact hinv.addFault hf _

theorem exec_inv {i : Instr} {s t : State} (hinv : s.Inv) (h : exec i s = .next t) : t.Inv :=
  (exec_effect h).2.inv (exec_effect h).1 hinv

/-- What every input keeps, every sequence of inputs keeps. -/
theorem execAll_keeps {P : State → Prop} (hstep : ∀ i s t, exec i s = .next t → P s → P t) {l : List Instr}
    {s t : State} (h : execAll l s = .next t) (hs : P s) : P t := by
  induction l generalizing s with
  | nil => cases h; exact hs
  | cons i is ih =>
    obtain ⟨u, hu, ht⟩ := execAll_cons_next h
    exact ih ht (hstep i s u hu hs)

theorem execAll_inv {l : List Instr} {s t : State} (h : execAll l s = .next t) (hinv : s.Inv) : t.Inv :=
  execAll_keeps (fun _ _ _ hi hs => exec_inv hs hi) h hinv

end Sys2Proof.Machine

namespace Sys2Proof.Proofs

/-- Settles O33: taking an input keeps the invariant, and so does every effect of the input taken. -/
theorem everyStepKeepsTheInvariant : Obligations.EveryStepKeepsTheInvariant := by
  intro s t hinv h
  obtain ⟨-, ⟨xs, rfl⟩ | ⟨i, u, hexec, ⟨xs, rfl⟩ | ⟨ws, rfl⟩⟩⟩ := step_next h
  · exact hinv.takeBus xs
  · exact exec_inv (hinv.takeBus xs) hexec
  · exact exec_inv (hinv.takeCall ws) hexec

/-- Settles O34: the buffers are whole buffers of free bytes, and everything else is empty or in its range. -/
theorem resetMeetsTheInvariant : Obligations.ResetMeetsTheInvariant where
  cfg := by
    have hsize : Config.freeSizeLess1.val + 1 ≤ 256 := Config.freeSizeLess1.isLt
    have hcodes : EventCodes.default.wf = true := by decide
    simp [State.reset, deployedConfig, Config.wf, hsize, hcodes]
  count := Nat.zero_le _
  active := by simp [State.reset]
  offset := Nat.le_of_lt_succ Config.freeOffset.isLt
  idle := fun _ => rfl
  pending := by simp [State.reset]
  batch := Memory.fits_ofFn _ _
  staging := Memory.fits_ofFn _ _
  readBuffer := Memory.fits_ofFn _ _
  user := Memory.fits_ofFn _ _
  snap := Memory.fits_ofFn _ _
  touched := rfl
  address := by simp [State.reset]
  oneFault := Nat.zero_le _
  noRefuse := List.not_mem_nil

/-- Settles O35: the fields of the reset state, and `staging` read back from the parameter. -/
theorem resetHoldsTheStatedValues : Obligations.ResetHoldsTheStatedValues :=
  ⟨rfl, rfl, rfl, rfl, rfl, rfl, rfl, rfl, fun _ hp => Memory.read_ofFn _ hp⟩

end Sys2Proof.Proofs
end

section
/-! Proofs about what every input leaves as it is and how it moves the rest: the fault record (R148, R150), each agent's own
state (R39), `staging` (R38.4), `txState` (R99), `appTurn` (R129), `offset` (R112, R115), the parameters and the registration
(R7, R141), and the outputs of an event (R98). -/

open Sys2Proof Sys2Proof.Machine Sys2Proof.Claims

namespace Sys2Proof.Machine

/-! ### The fault record -/

/-- R148: no input is given a next state once a fault is recorded. -/
theorem exec_halted {s : State} {r : FaultRecord} {l : List FaultRecord} (h : s.faults = r :: l) (i : Instr) :
    exec i s = .fault (.halted r) := by
  cases hi : i.isBusEvent with
  | true =>
    obtain ⟨body, ack, hexec⟩ := exec_eq_busEvent hi s
    rw [hexec, busEvent_halted h]
  | false =>
    obtain ⟨body, hexec⟩ := exec_eq_mainlineCall hi s
    rw [hexec, mainlineCall_halted h]

/-- R148: a raise in an input that runs no callback adds the record and no output. -/
theorem State.addFault_eq_of_not_invokesCallback {i : Instr} (hi : invokesCallback i = false) (s : State)
    (r : FaultRecord) :
    s.addFault r = { s with faults := s.faults ++ [r], outTrace := s.outTrace ++ delayOutput i s } := by
  simp [State.addFault, delayOutput, hi]

/-- R148, R150: an input raises nothing, or only adds one record and, if it ran a callback, that callback's delay. -/
theorem Effect.faults_cases {i : Instr} {s t : State} (h : Effect i s t) :
    t.faults = s.faults ∨
      ∃ r, t = { s with faults := s.faults ++ [r], outTrace := s.outTrace ++ delayOutput i s } := by
  cases h with
  | rxIdle | writeOob => exact .inr ⟨_, rfl⟩
  | readNoOffset _ _ _ hr | readOob _ _ _ hr =>
    obtain rfl | rfl := hr
    · exact .inr ⟨_, rfl⟩
    · exact .inr ⟨_, rfl⟩
  | conflict | commitNoTurn | ureadIndex | ureadNoTurn | uwriteIndex | uwriteNoTurn | doubleInit | badAddress =>
    exact .inr ⟨_, State.addFault_eq_of_not_invokesCallback rfl _ _⟩
  | _ => exact .inl rfl

/-! ### Outputs of an event -/

/-- R98 from the list of effects. -/
theorem Effect.outTrace_eq {i : Instr} {s t : State} (h : Effect i s t) (hi : i.isBusEvent = true)
    (hf : t.faults = []) :
    t.outTrace = s.outTrace ++ delayOutput i s ++
      (if transmits i then [.txByte (s.transactionReadBuffer.read s.offset)] else []) ++
      (if i = .busError then [.recoverBusError] else []) ++
      (if i ≠ .busError ∨ s.cfg.ackAfterBusError = true then [.ackNext] else []) := by
  cases h with
  | rxIdle | writeOob | readNoOffset | readOob => simp at hf
  | start | offset | data | stopEmpty | stopApply =>
    simp [applyBatch_eq, delayOutput, invokesCallback, transmits]
  | transmit _ _ _ hr =>
    obtain rfl | rfl := hr <;> simp [delayOutput, invokesCallback, transmits]
  | dataNack => simp [delayOutput, invokesCallback, transmits]
  | acknowledged _ _ _ hr =>
    obtain rfl | rfl | rfl | ⟨_, rfl⟩ := hr <;> simp [delayOutput, invokesCallback, transmits]
  | busErrorAck _ _ hack => simp [delayOutput, invokesCallback, transmits, hack]
  | busErrorSilent _ _ hsilent => simp [delayOutput, invokesCallback, transmits, hsilent]
  | snapshot | commit | conflict | commitNoTurn | uread | ureadIndex | ureadNoTurn | uwrite | uwriteIndex
  | uwriteNoTurn | init | doubleInit | badAddress => cases hi

/-! ### Whose state an input writes -/

/-- R43: the state of the application, which no bus event writes. -/
theorem Effect.applicationState_eq {i : Instr} {s t : State} (h : Effect i s t) (hi : i.isBusEvent = true) :
    t.userBuffer = s.userBuffer ∧ t.userBufferSnapshot = s.userBufferSnapshot ∧ t.appTurn = s.appTurn ∧
      t.initDone = s.initDone ∧ t.ownAddr = s.ownAddr ∧ t.appResults = s.appResults := by
  cases h with
  | snapshot | commit | conflict | commitNoTurn | uread | ureadIndex | ureadNoTurn | uwrite | uwriteIndex
  | uwriteNoTurn | init | doubleInit | badAddress => cases hi
  | _ => exact ⟨rfl, rfl, rfl, rfl, rfl, rfl⟩

/-- R44: the state of the bus transaction, which no call writes. -/
theorem Effect.transactionState_eq {i : Instr} {s t : State} (h : Effect i s t) (hi : i.isBusEvent = false) :
    t.txState = s.txState ∧ t.offset = s.offset ∧ t.offsetValid = s.offsetValid ∧
      t.pendingWrites = s.pendingWrites ∧ t.pendingCount = s.pendingCount ∧
      t.transactionReadBuffer = s.transactionReadBuffer ∧ t.outTrace = s.outTrace := by
  cases h with
  | snapshot | commit | conflict | commitNoTurn | uread | ureadIndex | ureadNoTurn | uwrite | uwriteIndex
  | uwriteNoTurn | init | doubleInit | badAddress => exact ⟨rfl, rfl, rfl, rfl, rfl, rfl, rfl⟩
  | transmit _ _ _ hr | readNoOffset _ _ _ hr | readOob _ _ _ hr => obtain rfl | rfl := hr <;> cases hi
  | acknowledged _ _ _ hr => obtain rfl | rfl | rfl | ⟨_, rfl⟩ := hr <;> cases hi
  | _ => cases hi

/-- R38.4: a batch applied and a commit are the only writes of `staging`. -/
theorem Effect.staging_eq {i : Instr} {s t : State} (h : Effect i s t) (hstop : i ≠ .srStop) (hcommit : i ≠ .commit) :
    t.staging = s.staging := by
  cases h with
  | stopApply => exact absurd rfl hstop
  | commit => exact absurd rfl hcommit
  | _ => rfl

/-! ### The transaction state -/

/-- R99: the transaction state after an input that raises nothing. -/
def txStateAfter (x : TxState) : Instr → TxState
  | .srAddr => .awaitingOffset
  | .srDataAck _ => .active
  | .srStop => .idle
  | _ => x

theorem txStateAfter_eq_self {i : Instr} (haddr : i ≠ .srAddr) (hdata : ∀ b, i ≠ .srDataAck b) (hstop : i ≠ .srStop)
    (x : TxState) : txStateAfter x i = x := by
  cases i with
  | srAddr => exact absurd rfl haddr
  | srDataAck b => exact absurd rfl (hdata b)
  | srStop => exact absurd rfl hstop
  | _ => rfl

theorem Effect.txState_eq {i : Instr} {s t : State} (h : Effect i s t) (hf : t.faults = []) :
    t.txState = txStateAfter s.txState i := by
  cases h with
  | rxIdle | writeOob => simp at hf
  | data _ _ _ hactive => exact hactive
  | transmit _ _ _ hr | readNoOffset _ _ _ hr | readOob _ _ _ hr =>
    obtain rfl | rfl := hr <;> rfl
  | acknowledged _ _ _ hr => obtain rfl | rfl | rfl | ⟨_, rfl⟩ := hr <;> rfl
  | _ => rfl

/-- R105: a received byte is accepted outside Idle only. -/
theorem Effect.txState_ne_idle {b : Byte} {s t : State} (h : Effect (.srDataAck b) s t) (hf : t.faults = []) :
    s.txState ≠ .idle := by
  cases h with
  | offset _ _ _ ht | data _ _ _ ht => simp [ht]
  | rxIdle => simp at hf
  | transmit _ _ _ hr | readNoOffset _ _ _ hr | readOob _ _ _ hr | acknowledged _ _ _ hr => simp at hr

/-! ### The turn -/

/-- R129: the turn after an input that raises nothing. -/
def appTurnAfter (x : AppTurn) : Instr → AppTurn
  | .snapshot => .opened
  | .commit => .closed
  | _ => x

theorem appTurnAfter_eq_self {i : Instr} (hsnapshot : i ≠ .snapshot) (hcommit : i ≠ .commit) (x : AppTurn) :
    appTurnAfter x i = x := by
  cases i with
  | snapshot => exact absurd rfl hsnapshot
  | commit => exact absurd rfl hcommit
  | _ => rfl

theorem Effect.appTurn_eq {i : Instr} {s t : State} (h : Effect i s t) (hf : t.faults = []) :
    t.appTurn = appTurnAfter s.appTurn i := by
  cases h with
  | conflict | commitNoTurn => simp at hf
  | transmit _ _ _ hr | readNoOffset _ _ _ hr | readOob _ _ _ hr =>
    obtain rfl | rfl := hr <;> rfl
  | acknowledged _ _ _ hr => obtain rfl | rfl | rfl | ⟨_, rfl⟩ := hr <;> rfl
  | _ => rfl

/-- R124, R128: the calls that need an open turn. -/
def needsTurn : Instr → Bool
  | .commit | .uread _ | .uwrite _ _ => true
  | _ => false

theorem Effect.appTurn_opened {i : Instr} {s t : State} (h : Effect i s t) (hi : needsTurn i = true)
    (hf : t.faults = []) : s.appTurn = .opened := by
  cases h with
  | commit _ ht | uread _ _ ht | uwrite _ _ _ ht => exact ht
  | conflict | commitNoTurn | ureadIndex | ureadNoTurn | uwriteIndex | uwriteNoTurn => simp at hf
  | transmit _ _ _ hr | readNoOffset _ _ _ hr | readOob _ _ _ hr => obtain rfl | rfl := hr <;> cases hi
  | acknowledged _ _ _ hr => obtain rfl | rfl | rfl | ⟨_, rfl⟩ := hr <;> cases hi
  | _ => cases hi

/-! ### The offset -/

/-- R115: an offset once received stays received. -/
theorem Effect.offsetValid_mono {i : Instr} {s t : State} (h : Effect i s t) (hv : s.offsetValid = true) :
    t.offsetValid = true := by
  cases h with
  | offset => rfl
  | _ => exact hv

theorem Effect.offsetValid_eq {i : Instr} {s t : State} (h : Effect i s t) (hi : ∀ b, i ≠ .srDataAck b) :
    t.offsetValid = s.offsetValid := by
  cases h with
  | offset _ b => exact absurd rfl (hi b)
  | _ => rfl

/-- R112: the two inputs that move `offset`. -/
theorem Effect.offset_eq {i : Instr} {s t : State} (h : Effect i s t) (hi : ∀ b, i ≠ .srDataAck b)
    (hreq : i ∉ requests) : t.offset = s.offset := by
  cases h with
  | offset _ b => exact absurd rfl (hi b)
  | transmit _ _ _ hr => exact absurd (by simpa [requests] using hr) hreq
  | _ => rfl

/-! ### The parameters and the registration -/

/-- R7: no input writes a parameter. -/
theorem Effect.cfg_eq {i : Instr} {s t : State} (h : Effect i s t) : t.cfg = s.cfg := by
  cases h <;> rfl

/-- R134, R141: after `INIT` a second one is a fault, so the registration stays. -/
theorem Effect.registration_eq {i : Instr} {s t : State} (h : Effect i s t) (hinit : s.initDone = true) :
    t.initDone = true ∧ t.ownAddr = s.ownAddr := by
  cases h with
  | init _ _ hnot => simp [hinit] at hnot
  | _ => exact ⟨hinit, rfl⟩

/-! ### A call past its guards -/

/-- R126: `UREAD` past both guards. -/
theorem exec_uread_done {s : State} {i : Byte} (hf : s.faults = []) (ht : s.appTurn = .opened)
    (hn : i.toNat < s.cfg.size) : exec (.uread i) s = .next (s.giveResult (s.userBuffer.read i.toNat)) :=
  mainlineCall_done hf (by
    rw [ureadBody, requireTurn_opened ht, Flow.andThen_done, requireIndex_done hn, Flow.andThen_done, indexOfByte])

end Sys2Proof.Machine

namespace Sys2Proof.Proofs

/-- Settles O26: the fault gate, and what a raise changes. -/
theorem recordedFaultStopsTheMachine : Obligations.RecordedFaultStopsTheMachine := by
  refine ⟨fun i s hf => ?_, fun s hf => ?_, fun i s t h => ?_⟩
  · obtain ⟨r, l, hl⟩ := List.exists_cons_of_ne_nil hf
    exact ⟨r, exec_halted hl i⟩
  · obtain ⟨r, l, hl⟩ := List.exists_cons_of_ne_nil hf
    exact ⟨r, whenNoFault_cons hl _⟩
  · obtain ⟨hf, heffect⟩ := exec_effect h
    have hcases := heffect.faults_cases
    simp only [hf, List.nil_append] at hcases
    exact ⟨hf, hcases⟩

/-- Settles O15: the outputs of each effect of a bus event. -/
theorem eventOutputsAreInOrder : Obligations.EventOutputsAreInOrder :=
  fun _ _ _ hi h hf => (exec_effect h).2.outTrace_eq hi hf

/-- Settles O27: the frame of a bus event and the frame of a call. -/
theorem eachAgentWritesOnlyItsOwnState : Obligations.EachAgentWritesOnlyItsOwnState :=
  ⟨fun _ _ _ hi h => (exec_effect h).2.applicationState_eq hi,
    fun _ _ _ hi h => (exec_effect h).2.transactionState_eq hi⟩

/-- Settles O28: no other effect writes `staging`. -/
theorem onlyStopAndCommitWriteStaging : Obligations.OnlyStopAndCommitWriteStaging :=
  fun _ _ _ hstop hcommit h => (exec_effect h).2.staging_eq hstop hcommit

/-- Settles O29: the table of R99 as a function of the input, and the guard of a received byte. -/
theorem transactionStateTable : Obligations.TransactionStateTable := by
  intro i s t h hf
  obtain ⟨-, heffect⟩ := exec_effect h
  have hnext := heffect.txState_eq hf
  refine ⟨?_, ?_, ?_, fun haddr hdata hstop => ?_⟩
  · rintro rfl
    exact hnext
  · rintro b rfl
    exact ⟨heffect.txState_ne_idle hf, hnext⟩
  · rintro rfl
    exact hnext
  · rw [hnext, txStateAfter_eq_self haddr hdata hstop]

/-- Settles O30: the table of R129 as a function of the input, and the guard of the calls in a turn. -/
theorem turnDisciplineTable : Obligations.TurnDisciplineTable := by
  intro i s t h hf
  obtain ⟨-, heffect⟩ := exec_effect h
  have hnext := heffect.appTurn_eq hf
  refine ⟨?_, ?_, ?_, ?_, fun hsnapshot hcommit => ?_⟩
  · rintro rfl
    exact hnext
  · rintro rfl
    exact ⟨heffect.appTurn_opened rfl hf, hnext⟩
  · rintro k rfl
    exact heffect.appTurn_opened rfl hf
  · rintro k v rfl
    exact heffect.appTurn_opened rfl hf
  · rw [hnext, appTurnAfter_eq_self hsnapshot hcommit]

/-- Settles O31: `takeOffset` is the only write of `offsetValid`, and with `advanceOffset` the only one of `offset`. -/
theorem offsetPersistsAcrossTransactions : Obligations.OffsetPersistsAcrossTransactions := by
  intro i s t h
  obtain ⟨-, heffect⟩ := exec_effect h
  exact ⟨heffect.offsetValid_mono, heffect.offsetValid_eq, heffect.offset_eq⟩

/-- Settles O32: taking an input leaves both as they are, and so does every effect of the input taken. -/
theorem parametersAndRegistrationAreFixed : Obligations.ParametersAndRegistrationAreFixed := by
  intro s t h
  obtain ⟨-, ⟨xs, rfl⟩ | ⟨i, u, hexec, ⟨xs, rfl⟩ | ⟨ws, rfl⟩⟩⟩ := step_next h
  · exact ⟨rfl, fun hinit => ⟨hinit, rfl⟩⟩
  · obtain ⟨-, heffect⟩ := exec_effect hexec
    exact ⟨heffect.cfg_eq, heffect.registration_eq⟩
  · obtain ⟨-, heffect⟩ := exec_effect hexec
    exact ⟨heffect.cfg_eq, heffect.registration_eq⟩

/-- Settles O21: the second opening of the turn copies the same `staging` over its own copies. -/
theorem secondSnapshotChangesNothing : Obligations.SecondSnapshotChangesNothing := by
  intro s t h
  obtain ⟨hf, -⟩ := exec_effect h
  rw [exec_snapshot_done hf] at h
  cases h
  exact exec_snapshot_done (s := s.openTurn) hf

/-- Settles O23: the read past both guards, and the two guards. -/
theorem ureadReturnsTheByte : Obligations.UreadReturnsTheByte :=
  fun _ _ hf => ⟨exec_uread_done hf, mainlineCall_noTurn hf, mainlineCall_badIndex hf⟩

end Sys2Proof.Proofs
end

section
/-! Proofs about sequences of inputs: what well-formed bus sequences keep out (R79, R105, R116), what a read joined to a
write returns (R114, R175), and where a batch cut off by a bus error lands (R113, R116). -/

open Sys2Proof Sys2Proof.Machine Sys2Proof.Claims

namespace Sys2Proof.Machine

/-! ### The phases of a well-formed sequence -/

theorem wellFormedFrom_cons {p : BusPhase} {i : Instr} {is : List Instr} :
    wellFormedFrom p (i :: is) = true ↔ ∃ q, nextPhase p i = some q ∧ wellFormedFrom q is = true := by
  rw [wellFormedFrom]
  cases nextPhase p i with
  | none => simp
  | some q => simp

/-- What every input keeps as the phase moves, the beginning of a well-formed sequence keeps. -/
theorem execAll_wellFormed_keeps {P : BusPhase → State → Prop} {l l' : List Instr} {p : BusPhase} {s t : State}
    (hstep : ∀ i ∈ l, ∀ p q s t, nextPhase p i = some q → exec i s = .next t → P p s → P q t)
    (hwf : wellFormedFrom p (l ++ l') = true) (h : execAll l s = .next t) (hs : P p s) :
    ∃ q, wellFormedFrom q l' = true ∧ P q t := by
  induction l generalizing p s with
  | nil => cases h; exact ⟨p, hwf, hs⟩
  | cons i is ih =>
    obtain ⟨u, hu, ht⟩ := execAll_cons_next h
    obtain ⟨q, hq, hwf⟩ := wellFormedFrom_cons.1 hwf
    obtain ⟨hi, his⟩ := List.forall_mem_cons.1 hstep
    exact ih his hwf ht (hi p q s u hq hu hs)

/-- R79: a write starts between elements. -/
theorem nextPhase_srAddr {p q : BusPhase} (h : nextPhase p .srAddr = some q) : p = .between := by
  cases p with
  | between => rfl
  | inWrite | inRead => cases h

/-- R79: a data byte is received inside a write only. -/
theorem nextPhase_srDataAck {p q : BusPhase} {b : Byte} (h : nextPhase p (.srDataAck b) = some q) : p = .inWrite := by
  cases p with
  | inWrite => rfl
  | between | inRead => cases h

/-- R79: the two ways to be inside a write. -/
theorem nextPhase_eq_inWrite {p : BusPhase} {i : Instr} (h : nextPhase p i = some .inWrite) :
    i = .srAddr ∨ (p = .inWrite ∧ i ≠ .srStop) := by
  cases i with
  | srAddr => exact .inl rfl
  | srDataAck | srDataNack | noInfo | srStop => cases p <;> simp_all [nextPhase]
  | _ => cases p <;> cases h

/-- R79: the two ways to be outside one, short of a bus error. -/
theorem nextPhase_ne_inWrite {p q : BusPhase} {i : Instr} (h : nextPhase p i = some q) (hq : q ≠ .inWrite)
    (herr : i ≠ .busError) : i = .srStop ∨ (p ≠ .inWrite ∧ (∀ b, i ≠ .srDataAck b) ∧ i ≠ .srStop) := by
  cases i with
  | srStop => exact .inl rfl
  | busError => exact absurd rfl herr
  | _ => cases p <;> simp_all [nextPhase]

/-! ### `F_RX_IDLE` in a well-formed sequence -/

/-- R105: what raises `F_RX_IDLE`. -/
theorem Effect.rxIdle_mem {i : Instr} {s t : State} {b : Byte} (h : Effect i s t) (hf : s.faults = [])
    (hb : .rxIdle b ∈ t.faults) : i = .srDataAck b ∧ s.txState = .idle := by
  cases h with
  | rxIdle _ d _ hidle =>
    obtain rfl : b = d := by simpa [beginCallback, hf] using hb
    exact ⟨rfl, hidle⟩
  | _ => simp [beginCallback, applyBatch_eq, hf] at hb

/-- R99: only a stop leads to Idle. -/
theorem txStateAfter_ne_idle {x : TxState} {i : Instr} (hx : x ≠ .idle) (hstop : i ≠ .srStop) :
    txStateAfter x i ≠ .idle := by
  cases i with
  | srStop => exact absurd rfl hstop
  | srAddr | srDataAck => simp [txStateAfter]
  | _ => exact hx

/-- No `F_RX_IDLE` so far, and none to come while a write goes on: its start has left Idle. -/
structure RxGuarded (p : BusPhase) (s : State) : Prop where
  noRxIdle : ∀ b, .rxIdle b ∉ s.faults
  notIdle : s.faults = [] → p = .inWrite → s.txState ≠ .idle

theorem exec_rxGuarded {p q : BusPhase} {i : Instr} {s t : State} (hq : nextPhase p i = some q)
    (h : exec i s = .next t) (hs : RxGuarded p s) : RxGuarded q t := by
  obtain ⟨hf, heffect⟩ := exec_effect h
  refine ⟨fun b hb => ?_, ?_⟩
  · obtain ⟨rfl, hidle⟩ := heffect.rxIdle_mem hf hb
    exact hs.notIdle hf (nextPhase_srDataAck hq) hidle
  · rintro hft rfl
    rw [heffect.txState_eq hft]
    obtain rfl | ⟨hp, hstop⟩ := nextPhase_eq_inWrite hq
    · simp [txStateAfter]
    · exact txStateAfter_ne_idle (hs.notIdle hf hp) hstop

/-! ### The batch in a well-formed sequence -/

/-- R108: a stop that raises nothing empties the batch. -/
theorem Effect.pendingCount_srStop {s t : State} (h : Effect .srStop s t) (hf : t.faults = []) :
    t.pendingCount = 0 := by
  cases h with
  | stopEmpty _ _ h0 => exact h0
  | stopApply => rfl
  | writeOob => simp at hf
  | transmit _ _ _ hr | readNoOffset _ _ _ hr | readOob _ _ _ hr | acknowledged _ _ _ hr => simp at hr

/-- R24: a received byte and a stop are the only inputs that count the batch. -/
theorem Effect.pendingCount_eq {i : Instr} {s t : State} (h : Effect i s t) (hdata : ∀ b, i ≠ .srDataAck b)
    (hstop : i ≠ .srStop) : t.pendingCount = s.pendingCount := by
  cases h with
  | data _ b => exact absurd rfl (hdata b)
  | stopApply => exact absurd rfl hstop
  | _ => rfl

/-- Outside a write nothing is pending, unless a stop has raised. -/
def EmptyOutsideWrite (p : BusPhase) (s : State) : Prop :=
  s.faults = [] → p ≠ .inWrite → s.pendingCount = 0

theorem exec_emptyOutsideWrite {p q : BusPhase} {i : Instr} {s t : State} (herr : i ≠ .busError)
    (hq : nextPhase p i = some q) (h : exec i s = .next t) (hs : EmptyOutsideWrite p s) : EmptyOutsideWrite q t := by
  intro hft hout
  obtain ⟨hf, heffect⟩ := exec_effect h
  obtain rfl | ⟨hp, hdata, hstop⟩ := nextPhase_ne_inWrite hq hout herr
  · exact heffect.pendingCount_srStop hft
  · exact (heffect.pendingCount_eq hdata hstop).trans (hs hf hp)

/-! ### A master write, then a read -/

/-- How a whole master write to `off`, started in `s`, leaves the block: ready to read at `off` what `staging` held in `s`
(R114). -/
structure AfterWrite (s : State) (off : Byte) (t : State) : Prop where
  inv : t.Inv
  enabled : Enabled t
  cfg : t.cfg = s.cfg
  empty : t.pendingCount = 0
  offsetValid : t.offsetValid = true
  offset : t.offset = off.toNat
  readBuffer : t.transactionReadBuffer = s.staging

/-- R103, R115: a master write leaves an offset received. -/
theorem execAll_mwrite_offsetValid {s t : State} {off : Byte} {ds : List Byte} (hs : Enabled s)
    (h : execAll (mwrite off ds) s = .next t) : t.offsetValid = true := by
  have hoffset := exec_srDataAck_awaitingOffset (s := { s with
    transactionReadBuffer := s.staging, txState := .awaitingOffset,
    outTrace := s.outTrace ++ [.delay s.cfg.delayUs, .ackNext] }) hs rfl off
  have hrest := (execAll_cons hoffset).symm.trans ((execAll_cons (exec_srAddr_enabled hs)).symm.trans h)
  exact execAll_keeps (P := fun u => u.offsetValid = true)
    (fun _ _ _ hi hv => (exec_effect hi).2.offsetValid_mono hv) hrest rfl

/-- R117: a whole master write within the record. -/
theorem execAll_mwrite {s : State} {off : Byte} {ds : List Byte} (hinv : s.Inv) (hs : Enabled s)
    (h0 : s.pendingCount = 0) (hfits : ds.length ≤ s.cfg.cap) (hsize : off.toNat + ds.length ≤ s.cfg.size) :
    ∃ t, execAll (mwrite off ds) s = .next t ∧ AfterWrite s off t ∧
      ∀ j, j < ds.length → ds[j]? = some (t.staging.read (off.toNat + j)) := by
  obtain ⟨t, hrun, hf, hbytes, -, hoffset, hidle, hbuffer⟩ :=
    Proofs.masterWriteLandsAtItsOffset s off ds hinv hs h0 hfits hsize
  have htinv := execAll_inv hrun hinv
  have hinit := execAll_keeps (P := fun u => u.initDone = true)
    (fun _ _ _ hi hu => ((exec_effect hi).2.registration_eq hu).1) hrun hs.2
  have hcfg := execAll_keeps (P := fun u => u.cfg = s.cfg)
    (fun _ _ _ hi hu => (exec_effect hi).2.cfg_eq.trans hu) hrun rfl
  exact ⟨t, hrun,
    ⟨htinv, ⟨hf, hinit⟩, hcfg, htinv.idle hidle, execAll_mwrite_offsetValid hs hrun, hoffset, hbuffer⟩, hbytes⟩

/-- R114: a read joined to a write transmits the byte `staging` held before the write. -/
theorem AfterWrite.exec_stAddr {s t : State} {off : Byte} (h : AfterWrite s off t) (hoff : off.toNat < s.cfg.size) :
    ∃ u l, exec .stAddr t = .next u ∧ u.outTrace = l ++ [.txByte (s.staging.read off.toNat), .ackNext] := by
  have hn : t.offset < t.cfg.size := by rwa [h.offset, h.cfg]
  refine ⟨_, t.outTrace ++ [.delay t.cfg.delayUs],
    exec_request_enabled (by simp [requests]) h.enabled h.offsetValid hn, ?_⟩
  rw [h.readBuffer, h.offset, List.append_assoc]
  rfl

/-! ### A bus error in the middle of a write -/

/-- R113: a bus error touches nothing but the outputs. -/
theorem exec_busError_frame {s : State} (hs : Enabled s) : ∃ out, exec .busError s = .next { s with outTrace := out } := by
  rw [exec_busError_enabled hs]
  split
  · exact ⟨_, rfl⟩
  · exact ⟨_, rfl⟩

/-- R104: a byte that finds room joins the batch. -/
theorem exec_srDataAck_room {s : State} (hs : Enabled s) (ht : s.txState = .active)
    (hroom : s.pendingCount < s.cfg.cap) (b : Byte) :
    ∃ out, exec (.srDataAck b) s =
      .next (s.withBatch (s.pendingWrites.write s.pendingCount b) (s.pendingCount + 1) out) := by
  have hidx : appendIndex s.cfg.cap s.pendingCount = s.pendingCount := if_neg hroom.ne
  have hdata := exec_srDataAck_active hs ht b
  rw [hidx] at hdata
  exact ⟨_, hdata⟩

/-- R103, R104, R116: after a bus error the next write's first byte joins the batch, at the new offset. -/
theorem execAll_busError_write {s : State} (hs : Enabled s) (hroom : s.pendingCount < s.cfg.cap) (o b : Byte) :
    ∃ out, execAll [.busError, .srAddr, .srDataAck o, .srDataAck b] s = .next
      ((s.beginTransaction.takeOffset o.toNat).withBatch (s.pendingWrites.write s.pendingCount b)
        (s.pendingCount + 1) out) := by
  obtain ⟨out, herr⟩ := exec_busError_frame hs
  have haddr := exec_srAddr_enabled (s := { s with outTrace := out }) hs
  have hoffset := exec_srDataAck_awaitingOffset (s := { s with
    transactionReadBuffer := s.staging, txState := .awaitingOffset,
    outTrace := out ++ [.delay s.cfg.delayUs, .ackNext] }) hs rfl o
  obtain ⟨out', hdata⟩ := exec_srDataAck_room (s := (s.beginTransaction.takeOffset o.toNat).withBatch s.pendingWrites
    s.pendingCount (out ++ [.delay s.cfg.delayUs, .ackNext] ++ [.delay s.cfg.delayUs, .ackNext])) hs rfl hroom b
  refine ⟨out', ?_⟩
  calc execAll [.busError, .srAddr, .srDataAck o, .srDataAck b] s
    _ = execAll [.srAddr, .srDataAck o, .srDataAck b] _ := execAll_cons herr
    _ = execAll [.srDataAck o, .srDataAck b] _ := execAll_cons haddr
    _ = execAll [.srDataAck b] _ := execAll_cons hoffset
    _ = .next _ := execAll_cons hdata

end Sys2Proof.Machine

namespace Sys2Proof.Proofs

/-- Settles O44: inside a write the block is not Idle, and only there does the grammar allow a data byte. -/
theorem wellFormedSequencesNeverRaiseRxIdle : Obligations.WellFormedSequencesNeverRaiseRxIdle := by
  intro l l' s t b hf hwf h
  have hstart : RxGuarded .between s := ⟨by simp [hf], by simp⟩
  obtain ⟨q, -, hguarded⟩ :=
    execAll_wellFormed_keeps (fun _ _ _ _ _ _ => exec_rxGuarded) hwf h hstart
  exact hguarded.noRxIdle b

/-- Settles O45: an `SR_ADDR` stands between elements, where without bus errors nothing is pending. -/
theorem batchIsEmptyAtEveryStartWithoutBusErrors : Obligations.BatchIsEmptyAtEveryStartWithoutBusErrors := by
  intro l l' s t u hwf hl h0 h hu
  obtain ⟨p, hp, hempty⟩ := execAll_wellFormed_keeps (P := EmptyOutsideWrite)
    (fun i hi _ _ _ _ => exec_emptyOutsideWrite (fun e => hl (e ▸ hi))) hwf h (fun _ _ => h0)
  obtain ⟨q, hq, -⟩ := wellFormedFrom_cons.1 hp
  exact hempty (exec_effect hu).1 (by simp [nextPhase_srAddr hq])

/-- Settles O42: each read sees `staging` as it was before the write it is joined to. -/
theorem readAfterWriteIsStaleUntilTheNextStart : Obligations.ReadAfterWriteIsStaleUntilTheNextStart := by
  intro s off b hinv hs h0 hoff
  obtain ⟨t, hwrite, ht, hbytes⟩ := execAll_mwrite (ds := [b]) hinv hs h0 hinv.one_le_cap hoff
  obtain ⟨t', hset, ht', -⟩ := execAll_mwrite (ds := []) ht.inv ht.enabled ht.empty (Nat.zero_le _)
    (show off.toNat ≤ t.cfg.size by rw [ht.cfg]; exact hoff.le)
  obtain ⟨u, l, hread, hout⟩ := ht.exec_stAddr hoff
  obtain ⟨u', l', hread', hout'⟩ := ht'.exec_stAddr (by rwa [ht.cfg])
  have hlanded : t.staging.read off.toNat = b := (Option.some.inj (hbytes 0 Nat.one_pos)).symm
  rw [hlanded] at hout'
  exact ⟨u, u', l, l', (execAll_append hwrite).trans (execAll_cons hread), hout,
    (execAll_append hwrite).trans ((execAll_append hset).trans (execAll_cons hread')), hout'⟩

/-- Settles O43: the stop applies the old bytes and the new one, all at the new offset. -/
theorem batchSurvivesABusErrorAndLandsAtTheNewOffset : Obligations.BatchSurvivesABusErrorAndLandsAtTheNewOffset := by
  intro s o b hinv hs _ hroom hsize
  obtain ⟨out, hrun⟩ := execAll_busError_write hs hroom o b
  have hstop := exec_srStop_inRange (s := (s.beginTransaction.takeOffset o.toNat).withBatch
    (s.pendingWrites.write s.pendingCount b) (s.pendingCount + 1) out) hs hsize
  have hland {j : Nat} (hj : j < s.pendingCount + 1) :=
    (s.beginTransaction.takeOffset o.toNat).withBatch_stopped_staging_read hinv.staging_wf
      (s.pendingWrites.write s.pendingCount b) out hj
  have hread := Memory.read_write hinv.pendingWrites_wf s.pendingCount b
  refine ⟨_, (execAll_append hrun).trans (execAll_cons hstop), hs.1, fun j hj => ?_, ?_⟩
  · exact (hland (Nat.lt_succ_of_lt hj)).trans ((hread j).trans (if_neg hj.ne))
  · exact (hland (Nat.lt_succ_self _)).trans ((hread s.pendingCount).trans (if_pos rfl))

end Sys2Proof.Proofs
end
